-- ==== Sys2Proof/Word.lean ====
section
/-! DEFINITION. The widths of the machine: a byte, a 16-bit word, a register index (spec/00_scope.md R9, R11). -/

namespace Sys2Proof

/-- `u8` of R11: a memory byte, a general register, a timer. -/
abbrev Byte := BitVec 8

/-- `u16` of R11: an instruction word, PC, I, a stack entry. -/
abbrev Word := BitVec 16

/-- `u12` of R11: the address field `nnn`. -/
abbrev Addr := BitVec 12

/-- The index of a general register, `V0` .. `VF` (R20). -/
abbrev RegIx := Fin 16

end Sys2Proof
end

