-- ==== Sys2Proof/Syntax.lean ====
section
/-! DEFINITION. The instructions: one constructor per row of spec/opcode_table.json (spec/30_encoding.md R79). -/

namespace Sys2Proof

/-- The 34 opcode classes of R3 and R79. The field types hold exactly the values the encoding admits (R72):
`x`, `y` name registers, `nn` is a byte, `nnn` a 12-bit address, `n` a 4-bit row count; all are unsigned (R73). -/
inductive Instr where
  /-- `00E0` CLS (R160). -/
  | cls
  /-- `00EE` RET (R100). -/
  | ret
  /-- `1NNN` JP nnn (R101). -/
  | jp (nnn : Addr)
  /-- `2NNN` CALL nnn (R102). -/
  | call (nnn : Addr)
  /-- `3XNN` SE Vx, nn (R103). -/
  | seImm (x : RegIx) (nn : Byte)
  /-- `4XNN` SNE Vx, nn (R104). -/
  | sneImm (x : RegIx) (nn : Byte)
  /-- `5XY0` SE Vx, Vy (R105). -/
  | seReg (x y : RegIx)
  /-- `6XNN` LD Vx, nn (R120). -/
  | ldImm (x : RegIx) (nn : Byte)
  /-- `7XNN` ADD Vx, nn (R121). -/
  | addImm (x : RegIx) (nn : Byte)
  /-- `8XY0` LD Vx, Vy (R124). -/
  | ldReg (x y : RegIx)
  /-- `8XY1` OR Vx, Vy (R125). -/
  | orReg (x y : RegIx)
  /-- `8XY2` AND Vx, Vy (R126). -/
  | andReg (x y : RegIx)
  /-- `8XY3` XOR Vx, Vy (R127). -/
  | xorReg (x y : RegIx)
  /-- `8XY4` ADD Vx, Vy (R128). -/
  | addReg (x y : RegIx)
  /-- `8XY5` SUB Vx, Vy (R129). -/
  | subReg (x y : RegIx)
  /-- `8XY6` SHR Vx, with y encoded and not read (R130). -/
  | shrReg (x y : RegIx)
  /-- `8XY7` SUBN Vx, Vy (R131). -/
  | subnReg (x y : RegIx)
  /-- `8XYE` SHL Vx, with y encoded and not read (R132). -/
  | shlReg (x y : RegIx)
  /-- `9XY0` SNE Vx, Vy (R106). -/
  | sneReg (x y : RegIx)
  /-- `ANNN` LD I, nnn (R140). -/
  | ldI (nnn : Addr)
  /-- `BNNN` JP V0, nnn (R107). -/
  | jpV0 (nnn : Addr)
  /-- `CXNN` RND Vx, nn (R133). -/
  | rnd (x : RegIx) (nn : Byte)
  /-- `DXYN` DRW Vx, Vy, n (R162). -/
  | drw (x y : RegIx) (n : BitVec 4)
  /-- `EX9E` SKP Vx (R183). -/
  | skp (x : RegIx)
  /-- `EXA1` SKNP Vx (R184). -/
  | sknp (x : RegIx)
  /-- `FX07` LD Vx, DT (R180). -/
  | ldVxDt (x : RegIx)
  /-- `FX0A` LD Vx, K (R189). -/
  | ldVxK (x : RegIx)
  /-- `FX15` LD DT, Vx (R181). -/
  | ldDtVx (x : RegIx)
  /-- `FX18` LD ST, Vx (R182). -/
  | ldStVx (x : RegIx)
  /-- `FX1E` ADD I, Vx (R141). -/
  | addI (x : RegIx)
  /-- `FX29` LD F, Vx (R142). -/
  | ldF (x : RegIx)
  /-- `FX33` LD B, Vx (R143). -/
  | ldB (x : RegIx)
  /-- `FX55` LD [I], Vx (R144). -/
  | storeRegs (x : RegIx)
  /-- `FX65` LD Vx, [I] (R145). -/
  | loadRegs (x : RegIx)
  deriving DecidableEq, Repr

end Sys2Proof
end

