-- ==== Sys2Proof/WellFormed.lean ====
section
/-! DEFINITION. Which instruction words are well formed (spec/30_encoding.md R78), check by check.
The fields of `Instr` hold exactly the encodable values, so every term of `Instr` is well formed; what can be
ill-formed here is a word, and these are the checks it must pass. -/

namespace Sys2Proof

/-- Bits `lo+3 .. lo` of a word as a number. -/
def WellFormed.nibbleAt (w : Word) (lo : Nat) : Nat := w.toNat / 2 ^ lo % 16

/-- R78, first case: major 0x0 is legal only as the whole words 0x00E0 and 0x00EE. -/
def WellFormed.major0Ok (w : Word) : Bool :=
  WellFormed.nibbleAt w 12 != 0 || w.toNat == 0x00E0 || w.toNat == 0x00EE

/-- R78, second case (R77): in majors 0x5 and 0x9 the low nibble is 0. -/
def WellFormed.skipRegOk (w : Word) : Bool :=
  !([0x5, 0x9].contains (WellFormed.nibbleAt w 12)) || WellFormed.nibbleAt w 0 == 0

/-- R78, third case (R75): in major 0x8 the low nibble is none of 8, 9, A, B, C, D, F. -/
def WellFormed.aluOk (w : Word) : Bool :=
  WellFormed.nibbleAt w 12 != 0x8 || !([0x8, 0x9, 0xA, 0xB, 0xC, 0xD, 0xF].contains (WellFormed.nibbleAt w 0))

/-- R78, fourth case (R76): in major 0xE the low byte is 0x9E or 0xA1. -/
def WellFormed.keyOk (w : Word) : Bool :=
  WellFormed.nibbleAt w 12 != 0xE || [0x9E, 0xA1].contains (w.toNat % 256)

/-- R78, fifth case (R76): in major 0xF the low byte is one of nine. -/
def WellFormed.miscOk (w : Word) : Bool :=
  WellFormed.nibbleAt w 12 != 0xF || [0x07, 0x0A, 0x15, 0x18, 0x1E, 0x29, 0x33, 0x55, 0x65].contains (w.toNat % 256)

/-- R78: a word is legal exactly when it passes the five checks. -/
def legalWord (w : Word) : Bool :=
  WellFormed.major0Ok w && WellFormed.skipRegOk w && WellFormed.aluOk w && WellFormed.keyOk w && WellFormed.miscOk w

end Sys2Proof
end

