-- ==== Sys2Proof/Decode.lean ====
section
/-! DEFINITION. The decoder and the encoder (spec/30_encoding.md R70 to R79). -/

namespace Sys2Proof

/-- Why the decoder refuses: the five illegal cases of R78, and a byte string too short for a word. -/
inductive Reject where
  /-- Major 0x0, but neither 0x00E0 nor 0x00EE (R76). -/
  | major0
  /-- Major 0x5 or 0x9 with a low nibble other than 0 (R77). -/
  | skipLowNibble
  /-- Major 0x8 with a low nibble that selects no operation (R75). -/
  | aluLowNibble
  /-- Major 0xE with a low byte other than 0x9E and 0xA1 (R76). -/
  | keyLowByte
  /-- Major 0xF with a low byte that selects no instruction (R76). -/
  | miscLowByte
  /-- Fewer than two bytes: not a word (R70). The machine's own fetch always gives two. -/
  | truncated
  deriving DecidableEq, Repr

/-- `op[15:12]`, the major opcode (R71). -/
def majorOf (w : Word) : BitVec 4 := w.extractLsb' 12 4

/-- `x = op[11:8]` (R72). -/
def fieldX (w : Word) : RegIx := (w.extractLsb' 8 4).toFin

/-- `y = op[7:4]` (R72). -/
def fieldY (w : Word) : RegIx := (w.extractLsb' 4 4).toFin

/-- `n = op[3:0]` (R72). -/
def fieldN (w : Word) : BitVec 4 := w.extractLsb' 0 4

/-- `nn = op[7:0]` (R72). -/
def fieldNN (w : Word) : Byte := w.extractLsb' 0 8

/-- `nnn = op[11:0]` (R72). -/
def fieldNNN (w : Word) : Addr := w.extractLsb' 0 12

/-- Major 0x0: two whole words (R76). -/
def decodeMajor0 (w : Word) : Except Reject Instr :=
  if w = 0x00E0#16 then .ok .cls
  else if w = 0x00EE#16 then .ok .ret
  else .error .major0

/-- Majors 0x5 and 0x9: the low nibble is 0 (R77). -/
def decodeSkipReg (i : Instr) (w : Word) : Except Reject Instr :=
  if fieldN w = 0x0#4 then .ok i else .error .skipLowNibble

/-- Major 0x8: selected by the low nibble (R75). -/
def decodeMajor8 (w : Word) : Except Reject Instr :=
  let x := fieldX w
  let y := fieldY w
  match fieldN w with
  | 0x0 => .ok (.ldReg x y)
  | 0x1 => .ok (.orReg x y)
  | 0x2 => .ok (.andReg x y)
  | 0x3 => .ok (.xorReg x y)
  | 0x4 => .ok (.addReg x y)
  | 0x5 => .ok (.subReg x y)
  | 0x6 => .ok (.shrReg x y)
  | 0x7 => .ok (.subnReg x y)
  | 0xE => .ok (.shlReg x y)
  | _ => .error .aluLowNibble

/-- Major 0xE: selected by the low byte (R76). -/
def decodeMajorE (w : Word) : Except Reject Instr :=
  match fieldNN w with
  | 0x9E => .ok (.skp (fieldX w))
  | 0xA1 => .ok (.sknp (fieldX w))
  | _ => .error .keyLowByte

/-- Major 0xF: selected by the low byte (R76). -/
def decodeMajorF (w : Word) : Except Reject Instr :=
  let x := fieldX w
  match fieldNN w with
  | 0x07 => .ok (.ldVxDt x)
  | 0x0A => .ok (.ldVxK x)
  | 0x15 => .ok (.ldDtVx x)
  | 0x18 => .ok (.ldStVx x)
  | 0x1E => .ok (.addI x)
  | 0x29 => .ok (.ldF x)
  | 0x33 => .ok (.ldB x)
  | 0x55 => .ok (.storeRegs x)
  | 0x65 => .ok (.loadRegs x)
  | _ => .error .miscLowByte

/-- The decoder (R74 to R78): by the major opcode, then by what the major's own rule says. The last arm is major 0xF. -/
def decode (w : Word) : Except Reject Instr :=
  match majorOf w with
  | 0x0 => decodeMajor0 w
  | 0x1 => .ok (.jp (fieldNNN w))
  | 0x2 => .ok (.call (fieldNNN w))
  | 0x3 => .ok (.seImm (fieldX w) (fieldNN w))
  | 0x4 => .ok (.sneImm (fieldX w) (fieldNN w))
  | 0x5 => decodeSkipReg (.seReg (fieldX w) (fieldY w)) w
  | 0x6 => .ok (.ldImm (fieldX w) (fieldNN w))
  | 0x7 => .ok (.addImm (fieldX w) (fieldNN w))
  | 0x8 => decodeMajor8 w
  | 0x9 => decodeSkipReg (.sneReg (fieldX w) (fieldY w)) w
  | 0xA => .ok (.ldI (fieldNNN w))
  | 0xB => .ok (.jpV0 (fieldNNN w))
  | 0xC => .ok (.rnd (fieldX w) (fieldNN w))
  | 0xD => .ok (.drw (fieldX w) (fieldY w) (fieldN w))
  | 0xE => decodeMajorE w
  | _ => decodeMajorF w

/-- Two bytes joined big-endian: the byte at the lower address is `op[15:8]` (R52, R91). -/
def joinBytes (hi lo : Byte) : Word := (hi ++ lo : BitVec 16)

/-- The decoder on any bytes: the first instruction and the bytes after it. -/
def decodeBytes : List Byte → Except Reject (Instr × List Byte)
  | hi :: lo :: rest =>
    match decode (joinBytes hi lo) with
    | .ok i => .ok (i, rest)
    | .error r => .error r
  | _ => .error .truncated

/-- A register index as the four bits that encode it. -/
def regBits (x : RegIx) : BitVec 4 := BitVec.ofFin x

/-- Formats `NNN`, `XNN`, `XYF`/`XY0`/`XYN` and `XFF` of R71, nibble by nibble from the most significant. -/
def wordNNN (major : BitVec 4) (nnn : Addr) : Word := (major ++ nnn : BitVec 16)

/-- Format `XNN` (and `XFF`, whose low byte is the function). -/
def wordXNN (major : BitVec 4) (x : RegIx) (nn : Byte) : Word := (major ++ regBits x ++ nn : BitVec 16)

/-- Formats `XY0`, `XYF` and `XYN`. -/
def wordXYN (major : BitVec 4) (x y : RegIx) (n : BitVec 4) : Word := (major ++ regBits x ++ regBits y ++ n : BitVec 16)

/-- The encoder: the word of an instruction, from the opcode map (R79) and the formats (R71). -/
def encode : Instr → Word
  | .cls => 0x00E0
  | .ret => 0x00EE
  | .jp nnn => wordNNN 0x1 nnn
  | .call nnn => wordNNN 0x2 nnn
  | .seImm x nn => wordXNN 0x3 x nn
  | .sneImm x nn => wordXNN 0x4 x nn
  | .seReg x y => wordXYN 0x5 x y 0x0
  | .ldImm x nn => wordXNN 0x6 x nn
  | .addImm x nn => wordXNN 0x7 x nn
  | .ldReg x y => wordXYN 0x8 x y 0x0
  | .orReg x y => wordXYN 0x8 x y 0x1
  | .andReg x y => wordXYN 0x8 x y 0x2
  | .xorReg x y => wordXYN 0x8 x y 0x3
  | .addReg x y => wordXYN 0x8 x y 0x4
  | .subReg x y => wordXYN 0x8 x y 0x5
  | .shrReg x y => wordXYN 0x8 x y 0x6
  | .subnReg x y => wordXYN 0x8 x y 0x7
  | .shlReg x y => wordXYN 0x8 x y 0xE
  | .sneReg x y => wordXYN 0x9 x y 0x0
  | .ldI nnn => wordNNN 0xA nnn
  | .jpV0 nnn => wordNNN 0xB nnn
  | .rnd x nn => wordXNN 0xC x nn
  | .drw x y n => wordXYN 0xD x y n
  | .skp x => wordXNN 0xE x 0x9E
  | .sknp x => wordXNN 0xE x 0xA1
  | .ldVxDt x => wordXNN 0xF x 0x07
  | .ldVxK x => wordXNN 0xF x 0x0A
  | .ldDtVx x => wordXNN 0xF x 0x15
  | .ldStVx x => wordXNN 0xF x 0x18
  | .addI x => wordXNN 0xF x 0x1E
  | .ldF x => wordXNN 0xF x 0x29
  | .ldB x => wordXNN 0xF x 0x33
  | .storeRegs x => wordXNN 0xF x 0x55
  | .loadRegs x => wordXNN 0xF x 0x65

/-- The word of an instruction as it lies in memory: the high byte at the lower address (R52). -/
def encodeBytes (i : Instr) : List Byte := [(encode i).extractLsb' 8 8, (encode i).extractLsb' 0 8]

/-- The word the opcode table's bit numbering gives: bits `nbits-1 .. 0` of `w`, the bits above them 0. -/
def tableWord (nbits w : Nat) : Word := BitVec.ofNat 16 (w % 2 ^ nbits)

/-- What the decoder reads from the bytes of a word numbered as spec/opcode_table.json numbers it. -/
def decodeTableWord (nbits w : Nat) : Option Instr :=
  match decodeBytes [(tableWord nbits w).extractLsb' 8 8, (tableWord nbits w).extractLsb' 0 8] with
  | .ok (i, _) => some i
  | .error _ => none

end Sys2Proof
end

