-- ==== Sys2Proof/Config.lean ====
section
/-! DEFINITION. What the spec leaves to the configuration and the free values (spec/00_scope.md R10, 10_state.md R37).
The three open parameters have no body: no proof can see a value, so a claim holds for every value. -/

namespace Sys2Proof

/-- `QUIRK_LS_INCREMENT_I` (R10, R146, D18), OPEN: whether `FX55` and `FX65` advance I by X+1. Log entry 3; safe. -/
opaque Config.quirkLsIncrementI : Bool

/-- `FONT_TABLE` (R10, R56, D20), OPEN: the 80 glyph bytes that reset puts at [0x050, 0x0A0). Log entry 4; safe. -/
opaque Config.fontTable : Vector Byte 80

/-- `RNG` (R10, R133, D23), OPEN: the n-th byte the injected random source gives. A FREE VALUE: nothing constrains it
or relates two draws. Log entry 2; safe. -/
opaque Config.draw8 : Nat → Byte

/-- The default of `FONT_TABLE` in R56 (marked there as general knowledge), digit by digit. PRESUMED by the spec itself;
the machine does not use it: it reads `Config.fontTable`. It is here for claims that name their table (D20); log entry 4. -/
def Config.defaultFontTable : Vector Byte 80 :=
  #v[0xF0, 0x90, 0x90, 0x90, 0xF0,  0x20, 0x60, 0x20, 0x20, 0x70,
     0xF0, 0x10, 0xF0, 0x80, 0xF0,  0xF0, 0x10, 0xF0, 0x10, 0xF0,
     0x90, 0x90, 0xF0, 0x10, 0x10,  0xF0, 0x80, 0xF0, 0x10, 0xF0,
     0xF0, 0x80, 0xF0, 0x90, 0xF0,  0xF0, 0x10, 0x20, 0x40, 0x40,
     0xF0, 0x90, 0xF0, 0x90, 0xF0,  0xF0, 0x90, 0xF0, 0x10, 0xF0,
     0xF0, 0x90, 0xF0, 0x90, 0x90,  0xE0, 0x90, 0xE0, 0x90, 0xE0,
     0xF0, 0x80, 0x80, 0x80, 0xF0,  0xE0, 0x90, 0x90, 0x90, 0xE0,
     0xF0, 0x80, 0xF0, 0x80, 0xF0,  0xF0, 0x80, 0xF0, 0x80, 0x80]

end Sys2Proof
end

