-- ==== Sys2Proof/Machine/State.lean ====
section
/-! DEFINITION. The state of the core (spec/10_state.md R20 to R40), the reasons a step or a transaction stops, and
the state after reset (spec/70_reset_and_hazards.md R230). -/

namespace Sys2Proof.Machine

/-- Memory (R34): the cells whose byte differs from what reset leaves there, by rising address.
`Memory.wf` (Machine/Ops.lean) says the form, `unlistedByte` what an unlisted address reads as. -/
abbrev Memory := List Host.Cell

/-- The framebuffer (R28): 32 rows of 64 pixels, row-major, so that the pixel at column x and row y is `fb[y][x]`. -/
abbrev Frame := Vector (Vector Bool 64) 32

/-- The typed errors (spec/60_exceptions.md R200), each with the value it records (D22). SAFE: the spec itself makes
each one the outcome, with every piece of architectural state as before (R94, R206). -/
inductive Fault where
  /-- Code 1, raised by the transaction `load` when the ROM is longer than 3584 bytes; records the length (R201). -/
  | romTooLarge (len : Nat)
  /-- Code 2, raised by `2NNN` when SP = 16; records pc0 and op (R202). -/
  | stackOverflow (pc0 op : Word)
  /-- Code 3, raised by `00EE` when SP = 0; records pc0 and op (R203). -/
  | stackUnderflow (pc0 op : Word)
  /-- Code 4, raised by decode for an illegal word; records pc0 and op (R204). -/
  | unknownOpcode (pc0 op : Word)
  deriving DecidableEq, Repr

/-- What the model gives no meaning. -/
inductive Refusal where
  /-- An instruction that has no meaning yet: only an arm of `exec` could raise it. None does. SAFE. -/
  | notModelled (mnemonic : String)
  /-- Raised by the transaction `load` once a step has run since reset (R233, D24, U8). SAFE. -/
  | loadAfterStart
  deriving DecidableEq, Repr

/-- The whole state (R20 to R34), the bookkeeping bit `started` (R39) and the model's own count of random draws. -/
structure State where
  /-- `V[0]` .. `V[15]`; `V[15]` is VF, the flag register (R20, R21). -/
  v : Vector Byte 16
  /-- The index register I (R22). -/
  i : Word
  /-- The program counter PC (R23). -/
  pc : Word
  /-- The call stack (R24). -/
  stack : Vector Word 16
  /-- The stack pointer SP, one of the 17 values 0 .. 16 (R25). -/
  sp : Fin 17
  /-- The delay timer DT (R26). -/
  dt : Byte
  /-- The sound timer ST (R27). -/
  st : Byte
  /-- The framebuffer FB (R28). -/
  fb : Frame
  /-- The redraw-pending flag (R29). -/
  drawFlag : Bool
  /-- The sixteen key states, bit k for key k, 1 meaning pressed (R30). -/
  keys : BitVec 16
  /-- The key-wait state of FX0A (R31). -/
  waiting : Bool
  /-- The target register of the suspended FX0A (R32). -/
  waitReg : RegIx
  /-- The keys held since the wait was entered (R33). -/
  waitMask : BitVec 16
  /-- Memory (R34). -/
  mem : Memory
  /-- Bookkeeping: a step has been taken since reset (R39). -/
  started : Bool
  /-- THE MODEL'S OWN: how many random bytes have been drawn; the next is `Config.draw8 draws` (log entry 2). -/
  draws : Nat
  deriving DecidableEq, Repr

/-- The state right after reset (R230). `draws` is the model's own field: DESIGN CHOICE 0, log entry 2; safe, since no
value of `Config.draw8` can be seen. -/
def State.reset : State where
  v := Vector.replicate 16 0
  i := 0
  pc := 0x200
  stack := Vector.replicate 16 0
  sp := 0
  dt := 0
  st := 0
  fb := Vector.replicate 32 (Vector.replicate 64 false)
  drawFlag := false
  keys := 0
  waiting := false
  waitReg := 0
  waitMask := 0
  mem := []
  started := false
  draws := 0

end Sys2Proof.Machine
end

