-- ==== Sys2Proof/Machine/Ops.lean ====
section
/-! DEFINITION. The named operations over memory, registers and the rest of the state, and raising an error. -/

namespace Sys2Proof.Machine

/-! ### Memory -/

/-- The font range [0x050, 0x0A0) (spec/20_memory.md R54, R55), of a reduced address. -/
def isFontAddr (a : Nat) : Bool := decide (0x050 ≤ a ∧ a < 0x0A0)

/-- What reset leaves at an address for a given font table (R54, R231): the table in the font range, 0 elsewhere. -/
def resetByteOf (font : Vector Byte 80) (a : Nat) : Byte :=
  if h : 0x050 ≤ a ∧ a < 0x0A0 then font[a - 0x050]'(by omega) else 0

/-- What an address with no cell reads as: the byte that reset leaves there, with the open parameter `FONT_TABLE`. -/
def unlistedByte (a : Nat) : Byte := resetByteOf Config.fontTable a

/-- The byte at a reduced address. -/
def Memory.read : Memory → Nat → Byte
  | [], a => unlistedByte a
  | c :: m, a => if c.1 = a then c.2 else Memory.read m a

/-- Put a cell in its place by address. -/
def Memory.insert : Memory → Nat → Byte → Memory
  | [], a, b => [(a, b)]
  | c :: m, a, b => if a < c.1 then (a, b) :: c :: m else c :: Memory.insert m a b

/-- Set the byte at a reduced address, keeping the canonical form: the old cell goes, and a new one comes unless the
address would read so without it. This is the raw write that reset and a loader have; no font check. -/
def Memory.set (m : Memory) (a : Nat) (b : Byte) : Memory :=
  let rest := m.filter (fun c => c.1 != a)
  if b = unlistedByte a then rest else Memory.insert rest a b

/-- `write8` (R13, R55, D19): a write whose reduced address lies in the font range changes nothing. -/
def Memory.store (m : Memory) (addr : Nat) (b : Byte) : Memory :=
  if isFontAddr (addr % 4096) then m else Memory.set m (addr % 4096) b

/-- `read8` (R13, R51): the byte at `addr mod 4096`. -/
def Memory.load (m : Memory) (addr : Nat) : Byte := Memory.read m (addr % 4096)

/-- Consecutive one-byte writes from an address upward, each address reduced (R51, R57, R66). -/
def Memory.storeList : Memory → Nat → List Byte → Memory
  | m, _, [] => m
  | m, addr, b :: bs => Memory.storeList (Memory.store m addr b) (addr + 1) bs

/-- The canonical form: addresses strictly rising and below 4096, and no cell equal to what its address reads as
without it. -/
abbrev Memory.wf (m : Memory) : Prop :=
  m.Pairwise (fun c d => c.1 < d.1) ∧ ∀ c ∈ m, c.1 < 4096 ∧ c.2 ≠ unlistedByte c.1

/-- `MemRead(addr, 1)` (R13). -/
def State.readByte (s : State) (addr : Nat) : Byte := Memory.load s.mem addr

/-- Replace the whole memory. -/
def State.setMem (s : State) (m : Memory) : State := { s with mem := m }

/-- `MemWrite(addr, 1, v)` (R13). -/
def State.writeByte (s : State) (addr : Nat) (b : Byte) : State := s.setMem (Memory.store s.mem addr b)

/-- Consecutive `MemWrite`s, the first byte at the lowest address (R66). -/
def State.writeBytes (s : State) (addr : Nat) (bs : List Byte) : State := s.setMem (Memory.storeList s.mem addr bs)

/-! ### Registers -/

/-- An address register's value reduced modulo 4096 (R22, R23; D3, D5). -/
def wrapAddr (w : Word) : Word := w % 4096#16

/-- `V[x] <- b` (R12, R20). -/
def State.setV (s : State) (x : RegIx) (b : Byte) : State := { s with v := s.v.set x.val b x.isLt }

/-- Replace all sixteen general registers (`FX65`). -/
def State.setRegs (s : State) (v : Vector Byte 16) : State := { s with v := v }

/-- `I <- w`, reduced (R22). -/
def State.setI (s : State) (w : Word) : State := { s with i := wrapAddr w }

/-- `PC <- w`, reduced (R23, D3). -/
def State.setPc (s : State) (w : Word) : State := { s with pc := wrapAddr w }

/-- The default successor `(pc0 + 2) mod 4096` (spec/40_cycle.md R92). -/
def State.advance (s : State) : State := s.setPc (s.pc + 2)

/-- A skip (R92): `(pc0 + 4) mod 4096` if the condition holds, else the default successor. -/
def State.skipIf (s : State) (c : Bool) : State := s.setPc (if c then s.pc + 4 else s.pc + 2)

/-- `DT <- b` (R26). -/
def State.setDt (s : State) (b : Byte) : State := { s with dt := b }

/-- `ST <- b` (R27). -/
def State.setSt (s : State) (b : Byte) : State := { s with st := b }

/-! ### The call stack (R24, R25) -/

/-- Replace the stack and its pointer. -/
def State.setStack (s : State) (stack : Vector Word 16) (sp : Fin 17) : State := { s with stack := stack, sp := sp }

/-- `Stack[SP] <- a; SP <- SP + 1`, or none when SP = 16 (R102). -/
def State.push (s : State) (a : Word) : Option State :=
  if h : s.sp.val < 16 then some (s.setStack (s.stack.set s.sp.val a h) ⟨s.sp.val + 1, by omega⟩) else none

/-- `SP <- SP - 1` and the entry there, which is not cleared; none when SP = 0 (R100). -/
def State.pop (s : State) : Option (Word × State) :=
  if h : 0 < s.sp.val then
    some (s.stack[s.sp.val - 1]'(by omega), s.setStack s.stack ⟨s.sp.val - 1, by omega⟩)
  else none

/-! ### Display, key wait, random source, bookkeeping -/

/-- Replace the framebuffer and set drawFlag, as `00E0` and `DXYN` do on every execution (R164, D14). -/
def State.setDisplay (s : State) (fb : Frame) : State := { s with fb := fb, drawFlag := true }

/-- `consumeDrawFlag`'s write (spec/44_display.md R166). -/
def State.clearDrawFlag (s : State) : State := { s with drawFlag := false }

/-- Replace the key states and the wait mask (`setKey`, spec/45_timers_input.md R188). -/
def State.setKeys (s : State) (keys mask : BitVec 16) : State := { s with keys := keys, waitMask := mask }

/-- Enter the key wait (R189): the keys held now are masked. -/
def State.enterWait (s : State) (x : RegIx) : State := { s with waiting := true, waitReg := x, waitMask := s.keys }

/-- Leave the key wait (R190). -/
def State.leaveWait (s : State) : State := { s with waiting := false }

/-- The next byte of the random source, a free value (R133, D23). -/
def State.drawnByte (s : State) : Byte := Config.draw8 s.draws

/-- Count a draw, so that the next one is another free value. -/
def State.countDraw (s : State) : State := { s with draws := s.draws + 1 }

/-- `started <- 1`, the first action of every step (R39, R90). -/
def State.markStarted (s : State) : State := { s with started := true }

/-! ### Errors -/

/-- The cause code of a typed error (spec/60_exceptions.md R200); the numbers are the spec's decision D22. -/
def Fault.code : Fault → Nat
  | .romTooLarge _ => 1
  | .stackOverflow _ _ => 2
  | .stackUnderflow _ _ => 3
  | .unknownOpcode _ _ => 4

/-- `raise E` (R14, R94, R206): the step ends with the typed error, which records pc0 and op; no state is saved and
no handler is entered. The host keeps the state before the step (Machine/Transactions.lean, `afterError`).
There is no return from an error (R207). -/
def raise (e : Word → Word → Fault) (op : Word) (s : State) : Host.Outcome State Fault Refusal := .fault (e s.pc op)

end Sys2Proof.Machine
end

