-- ==== Sys2Proof/Machine/Operands.lean ====
section
/-! DEFINITION. Every operand form of the instruction set (spec/30_encoding.md R72, R73): how an instruction finds what
it reads and where it goes. -/

namespace Sys2Proof.Machine

/-- `V[x]` (R12). -/
def State.reg (s : State) (x : RegIx) : Byte := s.v[x.val]

/-- An address field taken whole into a 16-bit register, `zext_16(nnn)` (R73). -/
def immAddr (nnn : Addr) : Word := nnn.setWidth 16

/-- An 8-bit register added to a 16-bit register, the register widened with zeros. -/
def plusByte (w : Word) (b : Byte) : Word := w + b.setWidth 16

/-- The first address of a data access: I. The k-th byte is at `(I + k) mod 4096` (spec/43_index_memory.md). -/
def State.dataAddr (s : State) : Nat := s.i.toNat

/-- The target of `BNNN`: `nnn + V[0]`, reduced when PC is written (spec/41_control_flow.md R107). -/
def State.offsetTarget (s : State) (nnn : Addr) : Word := plusByte (immAddr nnn) (s.reg 0)

/-- The return address of a call: `(pc0 + 2) mod 4096` (R102, D4). -/
def State.returnAddr (s : State) : Word := wrapAddr (s.pc + 2)

/-- The glyph address `0x050 + 5 × V[x]`, with `V[x]` taken whole (R142, D17). -/
def glyphAddr (d : Byte) : Word := 0x050#16 + 5#16 * d.setWidth 16

/-- The key that `EX9E` and `EXA1` test: `V[x] mod 16` (spec/45_timers_input.md R185, D15). -/
def keyIndex (b : Byte) : Nat := b.toNat % 16

/-- `keys[k]`. -/
def State.keyDown (s : State) (k : Nat) : Bool := s.keys.getLsbD k

/-- The three decimal digits of a byte, hundreds first (R143). -/
def bcdDigits (b : Byte) : List Byte :=
  [BitVec.ofNat 8 (b.toNat / 100), BitVec.ofNat 8 (b.toNat / 10 % 10), BitVec.ofNat 8 (b.toNat % 10)]

/-- `V[0]` .. `V[x]`, V0 first: what `FX55` stores (R144). -/
def State.regsUpTo (s : State) (x : RegIx) : List Byte := s.v.toList.take (x.val + 1)

/-- The registers after `FX65` (R145): `V[k]` for k up to x is the byte at `base + k`, the others as before. -/
def State.loadedRegs (s : State) (base : Nat) (x : RegIx) : Vector Byte 16 :=
  Vector.ofFn fun k : Fin 16 => if k ≤ x then s.readByte (base + k.val) else s.reg k

/-- I after `FX55` and `FX65` (R146): the address after the last byte when `QUIRK_LS_INCREMENT_I`, else unchanged. -/
def State.advanceI (s : State) (quirk : Bool) (x : RegIx) : State :=
  if quirk then s.setI (s.i + BitVec.ofNat 16 (x.val + 1)) else s

end Sys2Proof.Machine
end

