-- ==== Sys2Proof/Machine/Flags.lean ====
section
/-! DEFINITION. Every flag computation (spec/10_state.md R21): VF is the only flag, written with exactly 0 or 1, and
written last (spec/40_cycle.md R95, 42_register_alu.md R123). -/

namespace Sys2Proof.Machine

/-- A flag as the byte VF holds: 1 or 0. -/
def flagByte (b : Bool) : Byte := if b then 1 else 0

/-- `8XY4`: the unsigned sum exceeds 255 (R128). -/
def carryOf (a b : Byte) : Bool := decide (255 < a.toNat + b.toNat)

/-- `8XY5`, and `8XY7` with the operands exchanged: no borrow in `a - b` (R129, R131). -/
def noBorrowOf (a b : Byte) : Bool := decide (b.toNat ≤ a.toNat)

/-- `8XY6`: the bit shifted out to the right (R130). -/
def lowBitOf (a : Byte) : Bool := a.getLsbD 0

/-- `8XYE`: the bit shifted out to the left (R132). -/
def highBitOf (a : Byte) : Bool := a.getLsbD 7

/-- `VF <- 1 if b else 0`. -/
def State.setFlag (s : State) (b : Bool) : State := s.setV 15 (flagByte b)

/-- The result first, the flag second, so that with x = 15 the flag is what VF holds (R123, D10). -/
def State.setResultAndFlag (s : State) (x : RegIx) (r : Byte) (flag : Bool) : State := (s.setV x r).setFlag flag

end Sys2Proof.Machine
end

