-- ==== Sys2Proof/Machine/Alu.lean ====
section
/-! DEFINITION. Register loads and arithmetic (spec/42_register_alu.md R120 to R134). Operands are read before anything
is written (R122), results are modulo 256 (R134), the flag is written last (R123), and PC advances by 2. -/

namespace Sys2Proof.Machine

/-- `6XNN` LD Vx, nn (R120). -/
def execLdImm (x : RegIx) (nn : Byte) (s : State) : Host.Outcome State Fault Refusal :=
  .next (s.setV x nn).advance

/-- `7XNN` ADD Vx, nn (R121): no flag (D12). -/
def execAddImm (x : RegIx) (nn : Byte) (s : State) : Host.Outcome State Fault Refusal :=
  .next (s.setV x (s.reg x + nn)).advance

/-- `8XY0` LD Vx, Vy (R124). -/
def execLdReg (x y : RegIx) (s : State) : Host.Outcome State Fault Refusal :=
  .next (s.setV x (s.reg y)).advance

/-- `8XY1` OR Vx, Vy (R125): no flag (D11). -/
def execOrReg (x y : RegIx) (s : State) : Host.Outcome State Fault Refusal :=
  .next (s.setV x (s.reg x ||| s.reg y)).advance

/-- `8XY2` AND Vx, Vy (R126): no flag (D11). -/
def execAndReg (x y : RegIx) (s : State) : Host.Outcome State Fault Refusal :=
  .next (s.setV x (s.reg x &&& s.reg y)).advance

/-- `8XY3` XOR Vx, Vy (R127): no flag (D11). -/
def execXorReg (x y : RegIx) (s : State) : Host.Outcome State Fault Refusal :=
  .next (s.setV x (s.reg x ^^^ s.reg y)).advance

/-- `8XY4` ADD Vx, Vy (R128): VF is the carry. -/
def execAddReg (x y : RegIx) (s : State) : Host.Outcome State Fault Refusal :=
  .next (s.setResultAndFlag x (s.reg x + s.reg y) (carryOf (s.reg x) (s.reg y))).advance

/-- `8XY5` SUB Vx, Vy (R129, D8): `V[x] - V[y]`, VF is no-borrow. -/
def execSubReg (x y : RegIx) (s : State) : Host.Outcome State Fault Refusal :=
  .next (s.setResultAndFlag x (s.reg x - s.reg y) (noBorrowOf (s.reg x) (s.reg y))).advance

/-- `8XY6` SHR Vx (R130, D9): `V[x]` shifted in place, y not read. -/
def execShrReg (x _y : RegIx) (s : State) : Host.Outcome State Fault Refusal :=
  .next (s.setResultAndFlag x (s.reg x >>> 1) (lowBitOf (s.reg x))).advance

/-- `8XY7` SUBN Vx, Vy (R131, D8): `V[y] - V[x]`, VF is no-borrow. -/
def execSubnReg (x y : RegIx) (s : State) : Host.Outcome State Fault Refusal :=
  .next (s.setResultAndFlag x (s.reg y - s.reg x) (noBorrowOf (s.reg y) (s.reg x))).advance

/-- `8XYE` SHL Vx (R132, D9): `V[x]` shifted in place, y not read. -/
def execShlReg (x _y : RegIx) (s : State) : Host.Outcome State Fault Refusal :=
  .next (s.setResultAndFlag x (s.reg x <<< 1) (highBitOf (s.reg x))).advance

/-- `CXNN` RND Vx, nn (R133, D23): one byte is drawn, a free value, and masked with nn. -/
def execRnd (x : RegIx) (nn : Byte) (s : State) : Host.Outcome State Fault Refusal :=
  .next (s.countDraw.setV x (s.drawnByte &&& nn)).advance

end Sys2Proof.Machine
end

