-- ==== Sys2Proof/Machine/Control.lean ====
section
/-! DEFINITION. Control transfer and skips (spec/41_control_flow.md R100 to R108). A meaning runs with PC = pc0 and
writes the successor itself. -/

namespace Sys2Proof.Machine

/-- `00EE` RET (R100): pop the address and go there; StackUnderflow when SP = 0 (R203). -/
def execRet (s : State) : Host.Outcome State Fault Refusal :=
  match s.pop with
  | some (a, s') => .next (s'.setPc a)
  | none => raise .stackUnderflow (encode .ret) s

/-- `1NNN` JP nnn (R101). -/
def execJp (nnn : Addr) (s : State) : Host.Outcome State Fault Refusal := .next (s.setPc (immAddr nnn))

/-- `2NNN` CALL nnn (R102): push the address of the next instruction and jump; StackOverflow when SP = 16 (R202). -/
def execCall (nnn : Addr) (s : State) : Host.Outcome State Fault Refusal :=
  match s.push s.returnAddr with
  | some s' => .next (s'.setPc (immAddr nnn))
  | none => raise .stackOverflow (encode (.call nnn)) s

/-- `3XNN` SE Vx, nn (R103). -/
def execSeImm (x : RegIx) (nn : Byte) (s : State) : Host.Outcome State Fault Refusal :=
  .next (s.skipIf (decide (s.reg x = nn)))

/-- `4XNN` SNE Vx, nn (R104). -/
def execSneImm (x : RegIx) (nn : Byte) (s : State) : Host.Outcome State Fault Refusal :=
  .next (s.skipIf (decide (s.reg x ≠ nn)))

/-- `5XY0` SE Vx, Vy (R105). -/
def execSeReg (x y : RegIx) (s : State) : Host.Outcome State Fault Refusal :=
  .next (s.skipIf (decide (s.reg x = s.reg y)))

/-- `9XY0` SNE Vx, Vy (R106). -/
def execSneReg (x y : RegIx) (s : State) : Host.Outcome State Fault Refusal :=
  .next (s.skipIf (decide (s.reg x ≠ s.reg y)))

/-- `BNNN` JP V0, nnn (R107). -/
def execJpV0 (nnn : Addr) (s : State) : Host.Outcome State Fault Refusal := .next (s.setPc (s.offsetTarget nnn))

end Sys2Proof.Machine
end

