-- ==== Sys2Proof/Machine/Display.lean ====
section
/-! DEFINITION. The display instructions, sprites and collision (spec/44_display.md R160 to R164). -/

namespace Sys2Proof.Machine

/-- `FB[x, y]` for 0 ≤ x < 64 and 0 ≤ y < 32 (R28). -/
def Frame.pixel (fb : Frame) (x : Fin 64) (y : Fin 32) : Bool := fb[y.val][x.val]

/-- `FB[x, y] <- FB[x, y] XOR 1` (R162). -/
def Frame.flip (fb : Frame) (x : Fin 64) (y : Fin 32) : Frame :=
  fb.set y.val (fb[y.val].set x.val (!fb[y.val][x.val]) x.isLt) y.isLt

/-- The clear display (R160). -/
def Frame.blank : Frame := Vector.replicate 32 (Vector.replicate 64 false)

/-- `(ox + col) mod 64` (R161): horizontal wrap. -/
def pixelX (ox col : Nat) : Fin 64 := ⟨(ox + col) % 64, Nat.mod_lt _ (by decide)⟩

/-- `(oy + row) mod 32` (R161): vertical wrap. -/
def pixelY (oy row : Nat) : Fin 32 := ⟨(oy + row) % 32, Nat.mod_lt _ (by decide)⟩

/-- Sprite column `col` of a row byte: bit 7 is column 0, the leftmost (R161, D13). -/
def spriteBit (b : Byte) (col : Nat) : Bool := b.getLsbD (7 - col)

/-- One sprite pixel drawn: the framebuffer and whether a set pixel has become clear so far (R162, R163). -/
def drawPixel (ox oy row : Nat) (b : Byte) (acc : Frame × Bool) (col : Nat) : Frame × Bool :=
  if spriteBit b col then
    (Frame.flip acc.1 (pixelX ox col) (pixelY oy row), acc.2 || Frame.pixel acc.1 (pixelX ox col) (pixelY oy row))
  else acc

/-- The eight columns of a row, left to right (R162). -/
def drawRow (ox oy row : Nat) (b : Byte) (acc : Frame × Bool) : Frame × Bool :=
  [0, 1, 2, 3, 4, 5, 6, 7].foldl (drawPixel ox oy row b) acc

/-- The rows of a sprite from the given one down (R162). -/
def drawRows (ox oy : Nat) : Nat → List Byte → Frame × Bool → Frame × Bool
  | _, [], acc => acc
  | row, b :: bs, acc => drawRows ox oy (row + 1) bs (drawRow ox oy row b acc)

/-- The sprite bytes: row r is the byte at `(I + r) mod 4096` (R161). -/
def State.spriteRows (s : State) (n : Nat) : List Byte := (List.range n).map fun r => s.readByte (s.dataAddr + r)

/-- The framebuffer after a sprite is drawn at `(V[x], V[y])`, and the collision (R162, R163). -/
def State.drawn (s : State) (x y : RegIx) (n : Nat) : Frame × Bool :=
  drawRows (s.reg x).toNat (s.reg y).toNat 0 (s.spriteRows n) (s.fb, false)

/-- `00E0` CLS (R160): every pixel 0 and drawFlag 1, on every execution (D14). -/
def execCls (s : State) : Host.Outcome State Fault Refusal := .next (s.setDisplay Frame.blank).advance

/-- `DXYN` DRW Vx, Vy, n (R162): the origin and the sprite are read before VF is written (R95). -/
def execDrw (x y : RegIx) (n : BitVec 4) (s : State) : Host.Outcome State Fault Refusal :=
  let d := s.drawn x y n.toNat
  .next ((s.setDisplay d.1).setFlag d.2).advance

end Sys2Proof.Machine
end

