-- ==== Sys2Proof/Machine/Index.lean ====
section
/-! DEFINITION. The index register, loads and stores (spec/43_index_memory.md R140 to R146). None can fail (R51), none
writes VF as a flag, and PC advances by 2. -/

namespace Sys2Proof.Machine

/-- `ANNN` LD I, nnn (R140). -/
def execLdI (nnn : Addr) (s : State) : Host.Outcome State Fault Refusal := .next (s.setI (immAddr nnn)).advance

/-- `FX1E` ADD I, Vx (R141): modulo 4096, no flag (D12). -/
def execAddI (x : RegIx) (s : State) : Host.Outcome State Fault Refusal :=
  .next (s.setI (plusByte s.i (s.reg x))).advance

/-- `FX29` LD F, Vx (R142, D17). -/
def execLdF (x : RegIx) (s : State) : Host.Outcome State Fault Refusal := .next (s.setI (glyphAddr (s.reg x))).advance

/-- `FX33` LD B, Vx (R143): the three digits to I, I+1, I+2; font bytes are not written (R55). -/
def execLdB (x : RegIx) (s : State) : Host.Outcome State Fault Refusal :=
  .next (s.writeBytes s.dataAddr (bcdDigits (s.reg x))).advance

/-- `FX55` LD [I], Vx for a given `QUIRK_LS_INCREMENT_I` (R144, R146). -/
def storeRegsWith (quirk : Bool) (x : RegIx) (s : State) : State :=
  ((s.writeBytes s.dataAddr (s.regsUpTo x)).advanceI quirk x).advance

/-- `FX65` LD Vx, [I] for a given `QUIRK_LS_INCREMENT_I` (R145, R146). -/
def loadRegsWith (quirk : Bool) (x : RegIx) (s : State) : State :=
  ((s.setRegs (s.loadedRegs s.dataAddr x)).advanceI quirk x).advance

/-- `FX55` LD [I], Vx (R144), with the open parameter. -/
def execStoreRegs (x : RegIx) (s : State) : Host.Outcome State Fault Refusal :=
  .next (storeRegsWith Config.quirkLsIncrementI x s)

/-- `FX65` LD Vx, [I] (R145), with the open parameter. -/
def execLoadRegs (x : RegIx) (s : State) : Host.Outcome State Fault Refusal :=
  .next (loadRegsWith Config.quirkLsIncrementI x s)

end Sys2Proof.Machine
end

