-- ==== Sys2Proof/Machine/TimersInput.lean ====
section
/-! DEFINITION. Timers, keypad and the key wait (spec/45_timers_input.md R180 to R191). -/

namespace Sys2Proof.Machine

/-- `FX07` LD Vx, DT (R180). -/
def execLdVxDt (x : RegIx) (s : State) : Host.Outcome State Fault Refusal := .next (s.setV x s.dt).advance

/-- `FX15` LD DT, Vx (R181). -/
def execLdDtVx (x : RegIx) (s : State) : Host.Outcome State Fault Refusal := .next (s.setDt (s.reg x)).advance

/-- `FX18` LD ST, Vx (R182). -/
def execLdStVx (x : RegIx) (s : State) : Host.Outcome State Fault Refusal := .next (s.setSt (s.reg x)).advance

/-- `EX9E` SKP Vx (R183, R185). -/
def execSkp (x : RegIx) (s : State) : Host.Outcome State Fault Refusal :=
  .next (s.skipIf (s.keyDown (keyIndex (s.reg x))))

/-- `EXA1` SKNP Vx (R184, R185). -/
def execSknp (x : RegIx) (s : State) : Host.Outcome State Fault Refusal :=
  .next (s.skipIf (!s.keyDown (keyIndex (s.reg x))))

/-- `FX0A` LD Vx, K (R189): the step that executes it enters the key wait; PC stays on it. -/
def execLdVxK (x : RegIx) (s : State) : Host.Outcome State Fault Refusal := .next (s.enterWait x)

/-- The fresh keys: pressed and not held since the wait was entered (R190). -/
def State.freshKeys (s : State) : BitVec 16 := s.keys &&& ~~~s.waitMask

/-- The least index whose bit is set (R190, D16). -/
def lowestSet (w : BitVec 16) : Option RegIx := (List.finRange 16).find? fun k => w.getLsbD k.val

/-- The whole of a step taken while `waiting` = 1 (R190): with no fresh key nothing changes; with one, `V[waitReg]` takes
the least fresh key, the wait ends and PC advances by 2. -/
def keyWaitCheck (s : State) : State :=
  match lowestSet s.freshKeys with
  | none => s
  | some k => ((s.setV s.waitReg (BitVec.ofNat 8 k.val)).leaveWait).advance

end Sys2Proof.Machine
end

