-- ==== Sys2Proof/Machine/Fetch.lean ====
section
/-! DEFINITION. Fetching an instruction (spec/40_cycle.md R91) and placing one where it is fetched. -/

namespace Sys2Proof.Machine

/-- The word at PC (R91, R52): the bytes at PC and PC + 1, each address reduced modulo 4096, joined big-endian. -/
def State.fetchWord (s : State) : Word := joinBytes (s.readByte s.pc.toNat) (s.readByte (s.pc.toNat + 1))

/-- The state with a word's two bytes where the next fetch reads them, as a loader leaves them (no font check). -/
def State.placeWord (s : State) (op : Word) : State :=
  s.setMem (Memory.set (Memory.set s.mem (s.pc.toNat % 4096) (op.extractLsb' 8 8))
    ((s.pc.toNat + 1) % 4096) (op.extractLsb' 0 8))

end Sys2Proof.Machine
end

