-- ==== Sys2Proof/Machine/Step.lean ====
section
/-! DEFINITION. The step transaction (spec/40_cycle.md R90) and the host's placing of an instruction. -/

namespace Sys2Proof.Machine

/-- One step (R90): the bookkeeping bit is set; while the core waits for a key the step is the key-wait check and
fetches nothing; otherwise the word at PC is fetched, decoded and executed, and an illegal word raises UnknownOpcode
with pc0 and op (R93). -/
def step (s : State) : Host.Outcome State Fault Refusal :=
  let s1 := s.markStarted
  if s1.waiting then .next (keyWaitCheck s1)
  else
    match decode s1.fetchWord with
    | .ok i => exec i s1
    | .error _ => raise .unknownOpcode s1.fetchWord s1

/-- The state in which the very next step fetches and runs the word that bits `nbits-1 .. 0` of `w` give: its two bytes
stand at PC and PC + 1, and the core is not waiting for a key (a waiting core fetches nothing, R31). Log entry 7. -/
def State.withFetchWord (s : State) (nbits w : Nat) : State := (s.placeWord (tableWord nbits w)).leaveWait

end Sys2Proof.Machine
end

