-- ==== Sys2Proof/Machine/Transactions.lean ====
section
/-! DEFINITION. The host's transactions (spec/60_exceptions.md R215): what the outside world can do to the core.
Each is one atomic action (spec/20_memory.md R60); the host orders them freely (R216, D2). -/

namespace Sys2Proof.Machine

/-- The register values the host may read for diagnostics (R217). -/
structure RegisterView where
  v : Vector Byte 16
  i : Word
  pc : Word
  sp : Fin 17
  stack : Vector Word 16
  dt : Byte
  st : Byte
  deriving DecidableEq, Repr

/-- The transactions of R215, with their inputs. The 8-bit draw of a `step` that runs `CXNN` is the free value of
Machine/Ops.lean, `State.drawnByte`. -/
inductive Transaction where
  | reset
  | load (rom : List Byte)
  | step
  | tick
  | setKey (index : Nat) (pressed : Bool)
  | consumeDrawFlag
  | readFramebuffer
  | readSoundActive
  | readRegisters
  deriving DecidableEq, Repr

/-- The results of R215: none or Ok, a typed error, one bit, the 2048 pixels row by row, the registers; and the model's
refusal of a transaction it gives no meaning. -/
inductive Response where
  | ok
  | error (e : Fault)
  | refused (r : Refusal)
  | bit (b : Bool)
  | pixels (l : List Bool)
  | registers (r : RegisterView)
  deriving DecidableEq, Repr

/-- `reset()` (spec/70_reset_and_hazards.md R230, R232): every piece of state takes its reset value. The count of random
draws is no state of the core and goes on, so that a draw after reset is again a free value (log entry 2). -/
def State.resetNow (s : State) : State := { State.reset with draws := s.draws }

/-- The longest ROM (R9, R65): 3584 bytes. -/
def maxRomBytes : Nat := 3584

/-- `load(rom)` (R65, R201, R233): admitted only before the first step; too long a ROM changes nothing; otherwise byte k
of the ROM goes to 0x200 + k. -/
def loadRom (rom : List Byte) (s : State) : State × Response :=
  if s.started then (s, .refused .loadAfterStart)
  else if maxRomBytes < rom.length then (s, .error (.romTooLarge rom.length))
  else (s.writeBytes 0x200 rom, .ok)

/-- The state after a step that raised an error (R94, R206): as before the step, but for the bookkeeping bit. -/
def State.afterError (s : State) : State := s.markStarted

/-- `step()` as the host sees it (R90, R94). -/
def stepNow (s : State) : State × Response :=
  match step s with
  | .next s' => (s', .ok)
  | .fault e => (s.afterError, .error e)
  | .refused r => (s.afterError, .refused r)

/-- A timer's tick: down by one, with a floor at 0 (R26, R186). -/
def countDown (t : Byte) : Byte := if t = 0 then 0 else t - 1

/-- `tick()` (R186). -/
def State.tick (s : State) : State := (s.setDt (countDown s.dt)).setSt (countDown s.st)

/-- A key word with bit k set to `pressed`. -/
def setBit (w : BitVec 16) (k : Nat) (pressed : Bool) : BitVec 16 :=
  if pressed then w ||| (1#16 <<< k) else w &&& ~~~(1#16 <<< k)

/-- `setKey(index, pressed)` (R188): the index modulo 16; a release also clears the key's bit of the wait mask (D16). -/
def State.setKey (s : State) (index : Nat) (pressed : Bool) : State :=
  s.setKeys (setBit s.keys (index % 16) pressed)
    (if pressed then s.waitMask else setBit s.waitMask (index % 16) false)

/-- The framebuffer as the host reads it: 2048 pixels, row-major (R28, R165). -/
def State.framePixels (s : State) : List Bool := s.fb.toList.flatMap fun row => row.toList

/-- The sound output: `ST ≠ 0` (R211, D33). -/
def State.soundActive (s : State) : Bool := s.st != 0

/-- The register values (R217). -/
def State.registerView (s : State) : RegisterView where
  v := s.v
  i := s.i
  pc := s.pc
  sp := s.sp
  stack := s.stack
  dt := s.dt
  st := s.st

/-- One transaction: the state after it and its result. -/
def transact (s : State) : Transaction → State × Response
  | .reset => (s.resetNow, .ok)
  | .load rom => loadRom rom s
  | .step => stepNow s
  | .tick => (s.tick, .ok)
  | .setKey index pressed => (s.setKey index pressed, .ok)
  | .consumeDrawFlag => (s.clearDrawFlag, .bit s.drawFlag)
  | .readFramebuffer => (s, .pixels s.framePixels)
  | .readSoundActive => (s, .bit s.soundActive)
  | .readRegisters => (s, .registers s.registerView)

/-- A run: the state it has reached and every result the host was given, oldest first. The errors among them are the
faults of the run, which the model records and never clears (spec/40_cycle.md R94, spec/60_exceptions.md R207, D21); the core
itself keeps no record, so they are no part of `State` (log entry 11). -/
structure Run where
  state : State
  responses : List Response
  deriving DecidableEq, Repr

/-- The run in which nothing has happened yet. -/
def Run.start (s : State) : Run := ⟨s, []⟩

/-- A run goes on by one transaction, whose result is recorded. -/
def Run.transact (r : Run) (t : Transaction) : Run where
  state := (Machine.transact r.state t).1
  responses := r.responses ++ [(Machine.transact r.state t).2]

/-- A run goes on by a sequence of transactions in the host's order (R216). -/
def Run.transactAll : Run → List Transaction → Run
  | r, [] => r
  | r, t :: ts => (r.transact t).transactAll ts

/-- The typed error that a result returns, if it returns one (R200). -/
def Response.fault? : Response → Option Fault
  | .error e => some e
  | .ok => none
  | .refused _ => none
  | .bit _ => none
  | .pixels _ => none
  | .registers _ => none

/-- The faults of a run, oldest first: every error a step or a load of it returned (D21). -/
def Run.faults (r : Run) : List Fault := r.responses.filterMap Response.fault?

/-- A faulted run (D21). No reset and no other transaction makes it a run without a fault again. The spec defines no final
state (spec/70_reset_and_hazards.md R239, D26), so no run counts as final, a faulted one least of all; a claim whose premise
is 'no error returned' takes `faulted = false`. -/
def Run.faulted (r : Run) : Bool := !r.faults.isEmpty

/-- The state after a sequence of transactions in the host's order; `Run.transactAll` is the run with its record. -/
def transactAll : State → List Transaction → State
  | s, [] => s
  | s, t :: ts => transactAll (transact s t).1 ts

end Sys2Proof.Machine
end

