-- ==== Sys2Proof/Safety.lean ====
section
/-! DEFINITION. The terms the claims use: the invariant of the machine, which instruction may write which state, and
when an instruction raises an error. Each table is written from the spec's own lists, not from the meanings. -/

namespace Sys2Proof.Machine

/-- What every state reached from reset satisfies: memory is in canonical form and no font byte is listed (R55); PC, I
and every stack entry are below 4096 (R22, R23, R24). SP in 0..16 (R25) is in the type of the field. -/
abbrev State.Inv (s : State) : Prop :=
  Memory.wf s.mem ∧ (∀ c ∈ s.mem, isFontAddr c.1 = false) ∧ s.pc.toNat < 4096 ∧ s.i.toNat < 4096 ∧
    ∀ k : Fin 16, s.stack[k.val].toNat < 4096

end Sys2Proof.Machine

namespace Sys2Proof

open Sys2Proof.Machine

/-- The instructions that write VF as a flag (R21): `8XY4` to `8XY7`, `8XYE` and `DXYN`, and no others. -/
def Instr.writesFlag : Instr → Bool
  | .addReg _ _ | .subReg _ _ | .shrReg _ _ | .subnReg _ _ | .shlReg _ _ | .drw _ _ _ => true
  | .cls | .ret | .jp _ | .call _ | .seImm _ _ | .sneImm _ _ | .seReg _ _ | .ldImm _ _ | .addImm _ _ | .ldReg _ _
  | .orReg _ _ | .andReg _ _ | .xorReg _ _ | .sneReg _ _ | .ldI _ | .jpV0 _ | .rnd _ _ | .skp _ | .sknp _
  | .ldVxDt _ | .ldVxK _ | .ldDtVx _ | .ldStVx _ | .addI _ | .ldF _ | .ldB _ | .storeRegs _ | .loadRegs _ => false

/-- The general registers an instruction may write as its result, besides VF as a flag (R20, and each instruction's
rule): `V[x]`, all of `V[0]` .. `V[x]` for `FX65`, none for the others. `FX0A` writes none when it enters the wait. -/
def Instr.writesResult : Instr → RegIx → Bool
  | .ldImm x _, r | .addImm x _, r | .ldReg x _, r | .orReg x _, r | .andReg x _, r | .xorReg x _, r
  | .addReg x _, r | .subReg x _, r | .shrReg x _, r | .subnReg x _, r | .shlReg x _, r | .rnd x _, r
  | .ldVxDt x, r => r == x
  | .loadRegs x, r => decide (r ≤ x)
  | .cls, _ | .ret, _ | .jp _, _ | .call _, _ | .seImm _ _, _ | .sneImm _ _, _ | .seReg _ _, _ | .sneReg _ _, _
  | .ldI _, _ | .jpV0 _, _ | .drw _ _ _, _ | .skp _, _ | .sknp _, _ | .ldVxK _, _ | .ldDtVx _, _ | .ldStVx _, _
  | .addI _, _ | .ldF _, _ | .ldB _, _ | .storeRegs _, _ => false

/-- Every general register an instruction may write: its result, and VF for a flag writer (R20, R21). -/
def Instr.writesReg (i : Instr) (r : RegIx) : Bool := i.writesResult r || (i.writesFlag && r == 15)

/-- How many bytes an instruction stores from I upward (spec/20_memory.md R57): three for `FX33`, x+1 for `FX55`. -/
def Instr.storeWidth : Instr → Nat
  | .ldB _ => 3
  | .storeRegs x => x.val + 1
  | .cls | .ret | .jp _ | .call _ | .seImm _ _ | .sneImm _ _ | .seReg _ _ | .ldImm _ _ | .addImm _ _ | .ldReg _ _
  | .orReg _ _ | .andReg _ _ | .xorReg _ _ | .addReg _ _ | .subReg _ _ | .shrReg _ _ | .subnReg _ _ | .shlReg _ _
  | .sneReg _ _ | .ldI _ | .jpV0 _ | .rnd _ _ | .drw _ _ _ | .skp _ | .sknp _ | .ldVxDt _ | .ldVxK _ | .ldDtVx _
  | .ldStVx _ | .addI _ | .ldF _ | .loadRegs _ => 0

/-- Whether an instruction stores to the address a: one of its bytes `(I + k) mod 4096` is a's (R51, R66). -/
def Instr.storesTo (i : Instr) (s : State) (a : Nat) : Prop :=
  ∃ k, k < i.storeWidth ∧ (s.dataAddr + k) % 4096 = a % 4096

/-- The writers of I (R22): `ANNN`, `FX1E`, `FX29`, and `FX55`, `FX65` when `QUIRK_LS_INCREMENT_I`. -/
def Instr.writesI : Instr → Bool
  | .ldI _ | .addI _ | .ldF _ => true
  | .storeRegs _ | .loadRegs _ => Config.quirkLsIncrementI
  | .cls | .ret | .jp _ | .call _ | .seImm _ _ | .sneImm _ _ | .seReg _ _ | .ldImm _ _ | .addImm _ _ | .ldReg _ _
  | .orReg _ _ | .andReg _ _ | .xorReg _ _ | .addReg _ _ | .subReg _ _ | .shrReg _ _ | .subnReg _ _ | .shlReg _ _
  | .sneReg _ _ | .jpV0 _ | .rnd _ _ | .drw _ _ _ | .skp _ | .sknp _ | .ldVxDt _ | .ldVxK _ | .ldDtVx _ | .ldStVx _
  | .ldB _ => false

/-- `2NNN` (R102). -/
def Instr.isCall : Instr → Bool
  | .call _ => true
  | .cls | .ret | .jp _ | .seImm _ _ | .sneImm _ _ | .seReg _ _ | .ldImm _ _ | .addImm _ _ | .ldReg _ _
  | .orReg _ _ | .andReg _ _ | .xorReg _ _ | .addReg _ _ | .subReg _ _ | .shrReg _ _ | .subnReg _ _ | .shlReg _ _
  | .sneReg _ _ | .ldI _ | .jpV0 _ | .rnd _ _ | .drw _ _ _ | .skp _ | .sknp _ | .ldVxDt _ | .ldVxK _ | .ldDtVx _
  | .ldStVx _ | .addI _ | .ldF _ | .ldB _ | .storeRegs _ | .loadRegs _ => false

/-- When a decoded instruction raises an error (spec/40_cycle.md R96): `2NNN` with SP = 16, `00EE` with SP = 0, and no
other. -/
def Instr.fails (i : Instr) (s : State) : Prop := (i.isCall = true ∧ s.sp = 16) ∨ (i = .ret ∧ s.sp = 0)

end Sys2Proof
end

