-- ==== Sys2Proof/Certificates/Slice0/Obligations.lean ====
section
/-! DEFINITION. The statements for the provers. Each docstring names the rules of spec/ it formalises, or the spec's
decision (D<n> of spec/92_eei_decisions.md) and the log entry it rests on. -/

/-! ### Terms of the statements -/

namespace Sys2Proof.Certificates

open Sys2Proof Sys2Proof.Machine

/-- The word `base | nnn`, as the rules write an encoding. -/
abbrev opNNN (base : Word) (nnn : Addr) : Word := base ||| nnn.setWidth 16

/-- The word `base | x << 8`. -/
abbrev opX (base : Word) (x : RegIx) : Word := base ||| (BitVec.ofNat 16 x.val <<< 8)

/-- The word `base | x << 8 | nn`. -/
abbrev opXNN (base : Word) (x : RegIx) (nn : Byte) : Word := opX base x ||| nn.setWidth 16

/-- The word `base | x << 8 | y << 4`. -/
abbrev opXY (base : Word) (x y : RegIx) : Word := opX base x ||| (BitVec.ofNat 16 y.val <<< 4)

/-- PC advances by 2. What happens past 0xFFF is the spec's decision D3 and is said by SuccessorPc. -/
abbrev advancesByTwo (s t : State) : Prop := s.pc.toNat + 2 < 4096 → t.pc = s.pc + 2

/-- Nothing but general registers and PC differs. -/
abbrev onlyRegsAndPc (s t : State) : Prop := t = { s with v := t.v, pc := t.pc }

/-- Every general register but x is as before. -/
abbrev otherRegs (s t : State) (x : RegIx) : Prop := ∀ r : RegIx, r ≠ x → t.reg r = s.reg r

/-- Every general register but x and VF is as before. -/
abbrev otherRegsAndFlag (s t : State) (x : RegIx) : Prop := ∀ r : RegIx, r ≠ x → r ≠ 15 → t.reg r = s.reg r

/-- A sprite of n rows at I drawn at (V[x], V[y]) has a set bit on the pixel (X, Y) (R161): some row and column of it
land there and the column's bit, bit 7 - col of the row's byte, is 1. -/
def spriteCovers (s : State) (x y : RegIx) (n : BitVec 4) (X : Fin 64) (Y : Fin 32) : Prop :=
  ∃ row col, row < n.toNat ∧ col < 8 ∧ X.val = ((s.reg x).toNat + col) % 64 ∧ Y.val = ((s.reg y).toNat + row) % 32 ∧
    (s.readByte (s.i.toNat + row)).getLsbD (7 - col) = true

/-- One row of the opcode map (R79): its match, its mask, and the instruction its fields (R72) give. -/
structure MapRow where
  pattern : Word
  mask : Word
  instr : Word → Instr

/-- The opcode map, in the order of R79: first half. -/
def opcodeMapLow : List MapRow :=
  [⟨0x00E0, 0xFFFF, fun _ => .cls⟩, ⟨0x00EE, 0xFFFF, fun _ => .ret⟩,
   ⟨0x1000, 0xF000, fun w => .jp (fieldNNN w)⟩, ⟨0x2000, 0xF000, fun w => .call (fieldNNN w)⟩,
   ⟨0x3000, 0xF000, fun w => .seImm (fieldX w) (fieldNN w)⟩, ⟨0x4000, 0xF000, fun w => .sneImm (fieldX w) (fieldNN w)⟩,
   ⟨0x5000, 0xF00F, fun w => .seReg (fieldX w) (fieldY w)⟩, ⟨0x6000, 0xF000, fun w => .ldImm (fieldX w) (fieldNN w)⟩,
   ⟨0x7000, 0xF000, fun w => .addImm (fieldX w) (fieldNN w)⟩, ⟨0x8000, 0xF00F, fun w => .ldReg (fieldX w) (fieldY w)⟩,
   ⟨0x8001, 0xF00F, fun w => .orReg (fieldX w) (fieldY w)⟩, ⟨0x8002, 0xF00F, fun w => .andReg (fieldX w) (fieldY w)⟩,
   ⟨0x8003, 0xF00F, fun w => .xorReg (fieldX w) (fieldY w)⟩, ⟨0x8004, 0xF00F, fun w => .addReg (fieldX w) (fieldY w)⟩,
   ⟨0x8005, 0xF00F, fun w => .subReg (fieldX w) (fieldY w)⟩, ⟨0x8006, 0xF00F, fun w => .shrReg (fieldX w) (fieldY w)⟩,
   ⟨0x8007, 0xF00F, fun w => .subnReg (fieldX w) (fieldY w)⟩]

/-- The opcode map: second half. -/
def opcodeMapHigh : List MapRow :=
  [⟨0x800E, 0xF00F, fun w => .shlReg (fieldX w) (fieldY w)⟩, ⟨0x9000, 0xF00F, fun w => .sneReg (fieldX w) (fieldY w)⟩,
   ⟨0xA000, 0xF000, fun w => .ldI (fieldNNN w)⟩, ⟨0xB000, 0xF000, fun w => .jpV0 (fieldNNN w)⟩,
   ⟨0xC000, 0xF000, fun w => .rnd (fieldX w) (fieldNN w)⟩,
   ⟨0xD000, 0xF000, fun w => .drw (fieldX w) (fieldY w) (fieldN w)⟩,
   ⟨0xE09E, 0xF0FF, fun w => .skp (fieldX w)⟩, ⟨0xE0A1, 0xF0FF, fun w => .sknp (fieldX w)⟩,
   ⟨0xF007, 0xF0FF, fun w => .ldVxDt (fieldX w)⟩, ⟨0xF00A, 0xF0FF, fun w => .ldVxK (fieldX w)⟩,
   ⟨0xF015, 0xF0FF, fun w => .ldDtVx (fieldX w)⟩, ⟨0xF018, 0xF0FF, fun w => .ldStVx (fieldX w)⟩,
   ⟨0xF01E, 0xF0FF, fun w => .addI (fieldX w)⟩, ⟨0xF029, 0xF0FF, fun w => .ldF (fieldX w)⟩,
   ⟨0xF033, 0xF0FF, fun w => .ldB (fieldX w)⟩, ⟨0xF055, 0xF0FF, fun w => .storeRegs (fieldX w)⟩,
   ⟨0xF065, 0xF0FF, fun w => .loadRegs (fieldX w)⟩]

/-- The successor table (R92, with R100 to R107, R183 to R185): where PC goes for each instruction that does not fail. -/
def successor (i : Instr) (s : State) : Nat :=
  let next := (s.pc.toNat + 2) % 4096
  let skip (c : Bool) := if c then (s.pc.toNat + 4) % 4096 else next
  match i with
  | .jp nnn | .call nnn => nnn.toNat
  | .ret => if h : 0 < s.sp.val then (s.stack[s.sp.val - 1]'(by omega)).toNat % 4096 else next
  | .jpV0 nnn => (nnn.toNat + (s.reg 0).toNat) % 4096
  | .seImm x nn => skip (decide (s.reg x = nn))
  | .sneImm x nn => skip (decide (s.reg x ≠ nn))
  | .seReg x y => skip (decide (s.reg x = s.reg y))
  | .sneReg x y => skip (decide (s.reg x ≠ s.reg y))
  | .skp x => skip (s.keys.getLsbD ((s.reg x).toNat % 16))
  | .sknp x => skip (!s.keys.getLsbD ((s.reg x).toNat % 16))
  | .ldVxK _ => s.pc.toNat
  | .cls | .ldImm _ _ | .addImm _ _ | .ldReg _ _ | .orReg _ _ | .andReg _ _ | .xorReg _ _ | .addReg _ _
  | .subReg _ _ | .shrReg _ _ | .subnReg _ _ | .shlReg _ _ | .ldI _ | .rnd _ _ | .drw _ _ _ | .ldVxDt _ | .ldDtVx _
  | .ldStVx _ | .addI _ | .ldF _ | .ldB _ | .storeRegs _ | .loadRegs _ => next

end Sys2Proof.Certificates

open Sys2Proof Sys2Proof.Machine Sys2Proof.Certificates

/-! ### Encoding -/

/-- Decoding the word of an instruction gives it back, with every operand at every value (R71, R72, R79). -/
def Obligations.DecodeOfEncode : Prop := ∀ i : Instr, decode (encode i) = .ok i

/-- A word decodes to an instruction only if it is that instruction's word: no bit of a legal word is dropped (R79). -/
def Obligations.EncodeOfDecode : Prop := ∀ (w : Word) (i : Instr), decode w = .ok i → encode i = w

/-- The words the decoder refuses are exactly the illegal words that R78 lists (strict decoding is the spec's decisions
D6 and D7, log entry 9). -/
def Obligations.IllegalWordsRejected : Prop := ∀ w : Word, (∃ r, decode w = .error r) ↔ legalWord w = false

/-- The opcode map of R79, row by row: a word that matches a row decodes to the row's instruction, with the fields of
R72; and a word that decodes matches some row. The values 1 to 7 of the 8-family are the spec's decision D7 (K2). -/
def Obligations.OpcodeMapRows : Prop :=
  (∀ row ∈ opcodeMapLow ++ opcodeMapHigh, ∀ w : Word, w &&& row.mask = row.pattern → decode w = .ok (row.instr w)) ∧
    ∀ (w : Word) (i : Instr), decode w = .ok i → ∃ row ∈ opcodeMapLow ++ opcodeMapHigh, w &&& row.mask = row.pattern

/-- A few words written out bit by bit from R79 decode to the instructions they stand for (one of each format). -/
def Obligations.WordsDecodeAsWrittenOut : Prop :=
  decode 0b0000000011100000#16 = .ok .cls ∧
  decode 0b0010001100000100#16 = .ok (.call 0x304) ∧
  decode 0b0110101000010010#16 = .ok (.ldImm 10 0x12) ∧
  decode 0b0101000100100000#16 = .ok (.seReg 1 2) ∧
  decode 0b1000000100100101#16 = .ok (.subReg 1 2) ∧
  decode 0b1101000000010101#16 = .ok (.drw 0 1 5) ∧
  decode 0b1111001101010101#16 = .ok (.storeRegs 3)

/-! ### The step -/

/-- A step that finds the core not waiting runs the instruction that the word at PC decodes to, from the state in which
only the bookkeeping bit `started` has been set (R90). -/
def Obligations.StepRunsDecodedInstruction : Prop :=
  ∀ (s : State) (i : Instr), s.waiting = false → decode s.fetchWord = .ok i →
    step s = exec i { s with started := true }

/-- The word a step fetches: the byte at PC is `op[15:8]` and the byte at PC + 1 is `op[7:0]`, each address reduced
modulo 4096 (R52, R91; at PC = 0xFFF this is the spec's decision D30). -/
def Obligations.FetchIsBigEndian : Prop :=
  ∀ s : State, s.fetchWord.toNat = 256 * (s.readByte (s.pc.toNat % 4096)).toNat +
    (s.readByte ((s.pc.toNat + 1) % 4096)).toNat

/-- When a step stops: never while the core waits for a key, and otherwise exactly for an illegal word, a call with a
full stack and a return with an empty one (R96); the error is the one R200 names, with pc0 and op (decision D22). No step
is ever refused: the model gives every instruction its meaning. -/
def Obligations.OnlyCallRetAndIllegalWordsFail : Prop :=
  ∀ s : State, (∀ r, step s ≠ .refused r) ∧
    ∀ e, step s = .fault e ↔
      s.waiting = false ∧
        ((legalWord s.fetchWord = false ∧ e = .unknownOpcode s.pc s.fetchWord) ∨
          (∃ i, decode s.fetchWord = .ok i ∧ i.isCall = true ∧ s.sp = 16 ∧ e = .stackOverflow s.pc s.fetchWord) ∨
          (decode s.fetchWord = .ok .ret ∧ s.sp = 0 ∧ e = .stackUnderflow s.pc s.fetchWord))

/-- Every decoded instruction that R96 does not list as failing completes (R96: nothing else can fail). -/
def Obligations.DecodedInstructionsComplete : Prop :=
  ∀ (i : Instr) (s : State), ¬ i.fails s → ∃ t, exec i s = .next t

/-- After an error the state is as before the step but for `started`, the host is told the error, and a further step
raises the same error again (R94, R206, R207). A run records every error that a step or a load returns, after those it has
recorded before, and no transaction, reset included, takes one out of its record (the spec's decision D21, log entry 11). -/
def Obligations.ErrorLeavesStateAndRepeats : Prop :=
  (∀ (s : State) (e : Fault), step s = .fault e →
    transact s .step = ({ s with started := true }, .error e) ∧ step (transact s .step).1 = .fault e) ∧
  (∀ (r : Run) (tr : Transaction),
    (∀ e, (transact r.state tr).2 = .error e → (r.transact tr).faults = r.faults ++ [e]) ∧
      ((∀ e, (transact r.state tr).2 ≠ .error e) → (r.transact tr).faults = r.faults)) ∧
  ∀ (r : Run) (trs : List Transaction),
    (∃ later, (r.transactAll trs).faults = r.faults ++ later) ∧
      (r.faulted = true → (r.transactAll trs).faulted = true)

/-! ### Invariants -/

/-- The invariant holds after reset: memory canonical, PC = 0x200, I = 0 and the stack below 4096. -/
def Obligations.ResetSatisfiesInvariant : Prop := State.reset.Inv

/-- Every step keeps the invariant: memory stays canonical with no font byte changed, PC, I and every stack entry stay
below 4096 (R22, R23, R24, R55; the reductions are the spec's decisions D3 and D5, the dropped font write D19). -/
def Obligations.StepKeepsInvariant : Prop := ∀ s t : State, s.Inv → step s = .next t → t.Inv

/-- Every transaction of the host keeps the invariant (R215), so every reachable state satisfies it. -/
def Obligations.TransactionsKeepInvariant : Prop := ∀ (s : State) (tr : Transaction), s.Inv → (transact s tr).1.Inv

/-- In a state of the machine the font range reads as FONT_TABLE, whatever table is configured (R54, R55; that a write
there is dropped is the spec's decision D19). -/
def Obligations.FontReadsFontTable : Prop :=
  ∀ (s : State) (k : Nat) (h : k < 80), s.Inv → s.readByte (0x050 + k) = Config.fontTable[k]

/-- No step changes a font byte, in any state (R55, D19). -/
def Obligations.FontBytesImmutable : Prop :=
  ∀ (s t : State) (a : Nat), step s = .next t → 0x050 ≤ a % 4096 → a % 4096 < 0x0A0 → t.readByte a = s.readByte a

/-! ### Frames, over all instructions -/

/-- An instruction changes no general register but its result register(s) and, for a flag writer, VF (R20, R21). -/
def Obligations.RegistersUnchangedButWritten : Prop :=
  ∀ (i : Instr) (s t : State), exec i s = .next t → ∀ r : RegIx, i.writesReg r = false → t.reg r = s.reg r

/-- The flag writers of R21 leave VF exactly 0 or 1, and every other instruction leaves VF alone unless VF is its result
register. -/
def Obligations.FlagWrittenOnlyByFlagWriters : Prop :=
  ∀ (i : Instr) (s t : State), exec i s = .next t →
    (i.writesFlag = true → t.reg 15 = 0 ∨ t.reg 15 = 1) ∧
      (i.writesFlag = false → i.writesResult 15 = false → t.reg 15 = s.reg 15)

/-- Memory: every address but those an instruction stores to reads as before; only `FX33` and `FX55` store, the k-th byte
at `(I + k) mod 4096` (R57, R66). -/
def Obligations.MemoryUnchangedButStored : Prop :=
  ∀ (i : Instr) (s t : State), exec i s = .next t → ∀ a, ¬ i.storesTo s a → t.readByte a = s.readByte a

/-- The rest of the state. I is changed only by its writers (R22); the stack only by CALL and SP only by CALL and RET
(R24, R25); DT only by `FX15` and ST only by `FX18` (R26, R27); framebuffer and drawFlag only by `00E0` and `DXYN` (R28,
R29); keys by none (R30); the key-wait state only by `FX0A` (R31 to R33); `started` by none and the count of random draws
only by `CXNN`. -/
def Obligations.OtherStateUnchangedButWritten : Prop :=
  ∀ (i : Instr) (s t : State), exec i s = .next t →
    (i.writesI = false → t.i = s.i) ∧
    (i.isCall = false → t.stack = s.stack) ∧ (i.isCall = false → i ≠ .ret → t.sp = s.sp) ∧
    ((∀ x, i ≠ .ldDtVx x) → t.dt = s.dt) ∧ ((∀ x, i ≠ .ldStVx x) → t.st = s.st) ∧
    (i ≠ .cls → (∀ x y n, i ≠ .drw x y n) → t.fb = s.fb ∧ t.drawFlag = s.drawFlag) ∧
    t.keys = s.keys ∧
    ((∀ x, i ≠ .ldVxK x) → t.waiting = s.waiting ∧ t.waitReg = s.waitReg ∧ t.waitMask = s.waitMask) ∧
    t.started = s.started ∧ ((∀ x nn, i ≠ .rnd x nn) → t.draws = s.draws)

/-- The successor of every instruction that completes is the one of R92, reduced modulo 4096 (the reduction is the spec's
decision D3, log entry 9; the return address is D4, the key index D15). -/
def Obligations.SuccessorPc : Prop :=
  ∀ (i : Instr) (s t : State), exec i s = .next t → t.pc.toNat = successor i s

/-! ### Control transfer and skips -/

/-- R100: `00EE` returns to the entry below SP and decrements SP, the stack not cleared; with SP = 0 it raises
StackUnderflow with pc0 and op (the payload is the spec's decision D22). An entry is below 4096 in every reachable
state, by TransactionsKeepInvariant. -/
def Obligations.RetPopsReturnAddress : Prop :=
  decode 0x00EE = .ok .ret ∧
  (∀ (s : State) (h : 0 < s.sp.val), ∃ t, exec .ret s = .next t ∧ t.sp.val = s.sp.val - 1 ∧
    ((s.stack[s.sp.val - 1]'(by omega)).toNat < 4096 → t.pc = s.stack[s.sp.val - 1]'(by omega)) ∧
    t = { s with sp := t.sp, pc := t.pc }) ∧
  ∀ s : State, s.sp = 0 → exec .ret s = .fault (.stackUnderflow s.pc 0x00EE)

/-- R101, whole: `1NNN` jumps to nnn and changes nothing else. -/
def Obligations.JpJumps : Prop :=
  ∀ nnn : Addr, decode (opNNN 0x1000 nnn) = .ok (.jp nnn) ∧
    ∀ s : State, exec (.jp nnn) s = .next { s with pc := nnn.setWidth 16 }

/-- R102: `2NNN` pushes `(pc0 + 2) mod 4096` (the spec's decision D4, conflict C3), increments SP and jumps; with SP = 16
it raises StackOverflow and nothing else happens. -/
def Obligations.CallPushesAndJumps : Prop :=
  ∀ nnn : Addr, decode (opNNN 0x2000 nnn) = .ok (.call nnn) ∧
    (∀ (s : State) (h : s.sp.val < 16), ∃ t, exec (.call nnn) s = .next t ∧ t.sp.val = s.sp.val + 1 ∧
      t.stack = s.stack.set s.sp.val (BitVec.ofNat 16 ((s.pc.toNat + 2) % 4096)) h ∧ t.pc = nnn.setWidth 16 ∧
      t = { s with sp := t.sp, stack := t.stack, pc := t.pc }) ∧
    ∀ s : State, s.sp = 16 → exec (.call nnn) s = .fault (.stackOverflow s.pc (opNNN 0x2000 nnn))

/-- R103: `3XNN` skips the next word exactly when V[x] = nn (the reduction of PC is the spec's decision D3). -/
def Obligations.SeImmSkips : Prop :=
  ∀ (x : RegIx) (nn : Byte), decode (opXNN 0x3000 x nn) = .ok (.seImm x nn) ∧
    ∀ s : State, ∃ t, exec (.seImm x nn) s = .next t ∧
      t.pc.toNat = (if s.reg x = nn then (s.pc.toNat + 4) % 4096 else (s.pc.toNat + 2) % 4096) ∧
      t = { s with pc := t.pc }

/-- R104: `4XNN` skips the next word exactly when V[x] ≠ nn (the reduction of PC is the spec's decision D3). -/
def Obligations.SneImmSkips : Prop :=
  ∀ (x : RegIx) (nn : Byte), decode (opXNN 0x4000 x nn) = .ok (.sneImm x nn) ∧
    ∀ s : State, ∃ t, exec (.sneImm x nn) s = .next t ∧
      t.pc.toNat = (if s.reg x ≠ nn then (s.pc.toNat + 4) % 4096 else (s.pc.toNat + 2) % 4096) ∧
      t = { s with pc := t.pc }

/-- R105 and R106: `5XY0` skips exactly when the registers are equal, `9XY0` exactly when they differ; a low nibble other
than 0 makes either word illegal (R77, the spec's decision D6). -/
def Obligations.SkipOnRegisters : Prop :=
  ∀ x y : RegIx, decode (opXY 0x5000 x y) = .ok (.seReg x y) ∧ decode (opXY 0x9000 x y) = .ok (.sneReg x y) ∧
    (∀ n : BitVec 4, n ≠ 0 → (∃ r, decode (opXY 0x5000 x y ||| n.setWidth 16) = .error r) ∧
      ∃ r, decode (opXY 0x9000 x y ||| n.setWidth 16) = .error r) ∧
    ∀ s : State,
      (∃ t, exec (.seReg x y) s = .next t ∧
        t.pc.toNat = (if s.reg x = s.reg y then (s.pc.toNat + 4) % 4096 else (s.pc.toNat + 2) % 4096) ∧
        t = { s with pc := t.pc }) ∧
      ∃ t, exec (.sneReg x y) s = .next t ∧
        t.pc.toNat = (if s.reg x ≠ s.reg y then (s.pc.toNat + 4) % 4096 else (s.pc.toNat + 2) % 4096) ∧
        t = { s with pc := t.pc }

/-- R107: `BNNN` jumps to `(nnn + V[0]) mod 4096`, always with V0 (the reduction is the spec's decision D3). -/
def Obligations.JpV0Jumps : Prop :=
  ∀ nnn : Addr, decode (opNNN 0xB000 nnn) = .ok (.jpV0 nnn) ∧
    ∀ s : State, ∃ t, exec (.jpV0 nnn) s = .next t ∧ t.pc.toNat = (nnn.toNat + (s.reg 0).toNat) % 4096 ∧
      t = { s with pc := t.pc }

/-- A call and the return that pops it come back to the instruction after the call with SP as before (R100, R102; the
source's example L1-6; the return address is the spec's decision D4). -/
def Obligations.CallThenRetComesBack : Prop :=
  ∀ (s t : State) (nnn : Addr), exec (.call nnn) s = .next t →
    ∃ u, exec .ret t = .next u ∧ u.pc.toNat = (s.pc.toNat + 2) % 4096 ∧ u.sp = s.sp ∧
      u = { s with pc := u.pc, stack := u.stack }

/-! ### Register loads and arithmetic -/

/-- R120, whole: `6XNN` sets V[x] to nn; no flag. -/
def Obligations.LdImmLoads : Prop :=
  ∀ (x : RegIx) (nn : Byte), decode (opXNN 0x6000 x nn) = .ok (.ldImm x nn) ∧
    ∀ s : State, ∃ t, exec (.ldImm x nn) s = .next t ∧ t.reg x = nn ∧ otherRegs s t x ∧ advancesByTwo s t ∧
      onlyRegsAndPc s t

/-- R121: `7XNN` adds nn to V[x] modulo 256; VF is not changed unless x = 15 (the spec's decision D12). -/
def Obligations.AddImmAdds : Prop :=
  ∀ (x : RegIx) (nn : Byte), decode (opXNN 0x7000 x nn) = .ok (.addImm x nn) ∧
    ∀ s : State, ∃ t, exec (.addImm x nn) s = .next t ∧ (t.reg x).toNat = ((s.reg x).toNat + nn.toNat) % 256 ∧
      otherRegs s t x ∧ advancesByTwo s t ∧ onlyRegsAndPc s t

/-- R124, whole: `8XY0` sets V[x] to V[y]; no flag. -/
def Obligations.LdRegAssigns : Prop :=
  ∀ x y : RegIx, decode (opXY 0x8000 x y) = .ok (.ldReg x y) ∧
    ∀ s : State, ∃ t, exec (.ldReg x y) s = .next t ∧ t.reg x = s.reg y ∧ otherRegs s t x ∧ advancesByTwo s t ∧
      onlyRegsAndPc s t

/-- R125, R126, R127: OR, AND and XOR, bit by bit; VF is not changed unless x = 15 (the spec's decision D11; the function
values 1, 2, 3 are D7). -/
def Obligations.BitwiseOperations : Prop :=
  ∀ x y : RegIx, decode (opXY 0x8001 x y) = .ok (.orReg x y) ∧ decode (opXY 0x8002 x y) = .ok (.andReg x y) ∧
    decode (opXY 0x8003 x y) = .ok (.xorReg x y) ∧
    ∀ s : State,
      (∃ t, exec (.orReg x y) s = .next t ∧
        (∀ k, (t.reg x).getLsbD k = ((s.reg x).getLsbD k || (s.reg y).getLsbD k)) ∧
        otherRegs s t x ∧ advancesByTwo s t ∧ onlyRegsAndPc s t) ∧
      (∃ t, exec (.andReg x y) s = .next t ∧
        (∀ k, (t.reg x).getLsbD k = ((s.reg x).getLsbD k && (s.reg y).getLsbD k)) ∧
        otherRegs s t x ∧ advancesByTwo s t ∧ onlyRegsAndPc s t) ∧
      ∃ t, exec (.xorReg x y) s = .next t ∧
        (∀ k, (t.reg x).getLsbD k = ((s.reg x).getLsbD k ^^ (s.reg y).getLsbD k)) ∧
        otherRegs s t x ∧ advancesByTwo s t ∧ onlyRegsAndPc s t

/-- R128 with R122 and R123: `8XY4` adds modulo 256 and leaves the carry in VF, also when x = 15 (flag last is the spec's
decision D10, the function value 4 D7). -/
def Obligations.AddRegAddsWithCarry : Prop :=
  ∀ x y : RegIx, decode (opXY 0x8004 x y) = .ok (.addReg x y) ∧
    ∀ s : State, ∃ t, exec (.addReg x y) s = .next t ∧
      (x ≠ 15 → (t.reg x).toNat = ((s.reg x).toNat + (s.reg y).toNat) % 256) ∧
      t.reg 15 = (if 255 < (s.reg x).toNat + (s.reg y).toNat then 1 else 0) ∧
      otherRegsAndFlag s t x ∧ advancesByTwo s t ∧ onlyRegsAndPc s t

/-- R129 and R131 with R123: `8XY5` subtracts V[y] from V[x] and `8XY7` V[x] from V[y], modulo 256, and each leaves
no-borrow in VF (the operand order is the spec's decision D8, flag last D10, the function values 5 and 7 D7). -/
def Obligations.SubtractionsWithNoBorrow : Prop :=
  ∀ x y : RegIx, decode (opXY 0x8005 x y) = .ok (.subReg x y) ∧ decode (opXY 0x8007 x y) = .ok (.subnReg x y) ∧
    ∀ s : State,
      (∃ t, exec (.subReg x y) s = .next t ∧
        (x ≠ 15 → (t.reg x).toNat = ((s.reg x).toNat + 256 - (s.reg y).toNat) % 256) ∧
        t.reg 15 = (if (s.reg y).toNat ≤ (s.reg x).toNat then 1 else 0) ∧
        otherRegsAndFlag s t x ∧ advancesByTwo s t ∧ onlyRegsAndPc s t) ∧
      ∃ t, exec (.subnReg x y) s = .next t ∧
        (x ≠ 15 → (t.reg x).toNat = ((s.reg y).toNat + 256 - (s.reg x).toNat) % 256) ∧
        t.reg 15 = (if (s.reg x).toNat ≤ (s.reg y).toNat then 1 else 0) ∧
        otherRegsAndFlag s t x ∧ advancesByTwo s t ∧ onlyRegsAndPc s t

/-- R130 and R132 with R123: `8XY6` and `8XYE` shift V[x] by one in place, whatever y is, and leave the bit shifted out in
VF (in place is the spec's decision D9, flag last D10, the function value 6 D7). -/
def Obligations.ShiftsByOne : Prop :=
  ∀ x y : RegIx, decode (opXY 0x8006 x y) = .ok (.shrReg x y) ∧ decode (opXY 0x800E x y) = .ok (.shlReg x y) ∧
    ∀ s : State,
      (∃ t, exec (.shrReg x y) s = .next t ∧ (x ≠ 15 → (t.reg x).toNat = (s.reg x).toNat / 2) ∧
        (t.reg 15).toNat = (s.reg x).toNat % 2 ∧
        otherRegsAndFlag s t x ∧ advancesByTwo s t ∧ onlyRegsAndPc s t) ∧
      ∃ t, exec (.shlReg x y) s = .next t ∧ (x ≠ 15 → (t.reg x).toNat = (s.reg x).toNat * 2 % 256) ∧
        (t.reg 15).toNat = (s.reg x).toNat / 128 ∧
        otherRegsAndFlag s t x ∧ advancesByTwo s t ∧ onlyRegsAndPc s t

/-- R133: `CXNN` draws exactly one byte and sets V[x] to it ANDed with nn. The byte is a free value (decision D23, log
entry 2): the statement holds for every value of `Config.draw8`; bits outside nn are 0 whatever it is. -/
def Obligations.RndMasksOneDraw : Prop :=
  ∀ (x : RegIx) (nn : Byte), decode (opXNN 0xC000 x nn) = .ok (.rnd x nn) ∧
    ∀ s : State, ∃ t, exec (.rnd x nn) s = .next t ∧ t.reg x = Config.draw8 s.draws &&& nn ∧
      (∀ k, nn.getLsbD k = false → (t.reg x).getLsbD k = false) ∧ t.draws = s.draws + 1 ∧
      otherRegs s t x ∧ advancesByTwo s t ∧ t = { s with v := t.v, pc := t.pc, draws := t.draws }

/-! ### Index register, loads and stores -/

/-- R140, whole: `ANNN` sets I to nnn. -/
def Obligations.LdISetsIndex : Prop :=
  ∀ nnn : Addr, decode (opNNN 0xA000 nnn) = .ok (.ldI nnn) ∧
    ∀ s : State, ∃ t, exec (.ldI nnn) s = .next t ∧ t.i = nnn.setWidth 16 ∧ advancesByTwo s t ∧
      t = { s with i := t.i, pc := t.pc }

/-- R141: `FX1E` adds V[x] to I modulo 4096, VF unchanged (the spec's decision D12). -/
def Obligations.AddIAddsModulo4096 : Prop :=
  ∀ x : RegIx, decode (opX 0xF01E x) = .ok (.addI x) ∧
    ∀ s : State, ∃ t, exec (.addI x) s = .next t ∧ t.i.toNat = (s.i.toNat + (s.reg x).toNat) % 4096 ∧
      advancesByTwo s t ∧ t = { s with i := t.i, pc := t.pc }

/-- R142: `FX29` sets I to `0x050 + 5 × V[x]`, V[x] taken whole (the spec's decision D17). -/
def Obligations.LdFPointsAtGlyph : Prop :=
  ∀ x : RegIx, decode (opX 0xF029 x) = .ok (.ldF x) ∧
    ∀ s : State, ∃ t, exec (.ldF x) s = .next t ∧ t.i.toNat = 0x050 + 5 * (s.reg x).toNat ∧
      advancesByTwo s t ∧ t = { s with i := t.i, pc := t.pc }

/-- R143: `FX33` stores the hundreds, tens and units of V[x] at I, I+1 and I+2, each address modulo 4096; a font byte is
not written (R55, the spec's decision D19); every other byte and everything else is unchanged. -/
def Obligations.LdBStoresDigits : Prop :=
  ∀ x : RegIx, decode (opX 0xF033 x) = .ok (.ldB x) ∧
    ∀ s : State, ∃ t, exec (.ldB x) s = .next t ∧
      (∀ k, k < 3 → isFontAddr ((s.i.toNat + k) % 4096) = false →
        (t.readByte (s.i.toNat + k)).toNat =
          (if k = 0 then (s.reg x).toNat / 100 else if k = 1 then (s.reg x).toNat / 10 % 10
            else (s.reg x).toNat % 10)) ∧
      (∀ a, (∀ k, k < 3 → (s.i.toNat + k) % 4096 ≠ a % 4096) → t.readByte a = s.readByte a) ∧
      (∀ a, isFontAddr (a % 4096) = true → t.readByte a = s.readByte a) ∧
      advancesByTwo s t ∧ t = { s with mem := t.mem, pc := t.pc }

/-- R144, R146: `FX55` stores V[0] .. V[x] at I upward, each address modulo 4096; a font byte is not written (R55, the
spec's decision D19); I then advances by x+1 modulo 4096 exactly when QUIRK_LS_INCREMENT_I (decisions D5, D18, log entry
3: the statement holds for both values); every other byte and everything else is unchanged. -/
def Obligations.StoreRegsStores : Prop :=
  ∀ x : RegIx, decode (opX 0xF055 x) = .ok (.storeRegs x) ∧
    ∀ s : State, ∃ t, exec (.storeRegs x) s = .next t ∧
      (∀ k : RegIx, k ≤ x → isFontAddr ((s.i.toNat + k.val) % 4096) = false →
        t.readByte (s.i.toNat + k.val) = s.reg k) ∧
      (∀ a, (∀ k, k ≤ x.val → (s.i.toNat + k) % 4096 ≠ a % 4096) → t.readByte a = s.readByte a) ∧
      (∀ a, isFontAddr (a % 4096) = true → t.readByte a = s.readByte a) ∧
      t.i.toNat = (if Config.quirkLsIncrementI then (s.i.toNat + x.val + 1) % 4096 else s.i.toNat) ∧
      advancesByTwo s t ∧ t = { s with mem := t.mem, i := t.i, pc := t.pc }

/-- R145, R146: `FX65` loads V[0] .. V[x] from I upward, each address modulo 4096; I as for `FX55` (decisions D5, D18, log
entry 3); the registers above x and everything else are unchanged. -/
def Obligations.LoadRegsLoads : Prop :=
  ∀ x : RegIx, decode (opX 0xF065 x) = .ok (.loadRegs x) ∧
    ∀ s : State, ∃ t, exec (.loadRegs x) s = .next t ∧
      (∀ k : RegIx, k ≤ x → t.reg k = s.readByte ((s.i.toNat + k.val) % 4096)) ∧
      (∀ k : RegIx, x < k → t.reg k = s.reg k) ∧
      t.i.toNat = (if Config.quirkLsIncrementI then (s.i.toNat + x.val + 1) % 4096 else s.i.toNat) ∧
      advancesByTwo s t ∧ t = { s with v := t.v, i := t.i, pc := t.pc }

/-! ### Display -/

/-- R160: `00E0` clears every pixel and sets drawFlag, on every execution (the spec's decision D14); VF is unchanged. -/
def Obligations.ClsClearsDisplay : Prop :=
  decode 0x00E0 = .ok .cls ∧
    ∀ s : State, ∃ t, exec .cls s = .next t ∧ (∀ X Y, Frame.pixel t.fb X Y = false) ∧ t.drawFlag = true ∧
      advancesByTwo s t ∧ t = { s with fb := t.fb, drawFlag := t.drawFlag, pc := t.pc }

/-- R161, R162, R163: `DXYN` inverts exactly the pixels its sprite has a set bit on, with wrap on both axes; VF is 1 if one
of them was set, else 0, also when x or y is 15; drawFlag is set on every execution (decision D14); I and every other
register are unchanged. Bit 7 as the leftmost column is the spec's decision D13. -/
def Obligations.DrwXorsSprite : Prop :=
  ∀ (x y : RegIx) (n : BitVec 4), decode (opXY 0xD000 x y ||| n.setWidth 16) = .ok (.drw x y n) ∧
    ∀ s : State, ∃ t, exec (.drw x y n) s = .next t ∧
      (∀ X Y, Frame.pixel t.fb X Y = true ↔ ¬(Frame.pixel s.fb X Y = true ↔ spriteCovers s x y n X Y)) ∧
      ((∃ X Y, spriteCovers s x y n X Y ∧ Frame.pixel s.fb X Y = true) → t.reg 15 = 1) ∧
      (¬(∃ X Y, spriteCovers s x y n X Y ∧ Frame.pixel s.fb X Y = true) → t.reg 15 = 0) ∧
      otherRegs s t 15 ∧ t.drawFlag = true ∧ advancesByTwo s t ∧
      t = { s with fb := t.fb, drawFlag := t.drawFlag, v := t.v, pc := t.pc }

/-- Drawing the same sprite twice at the same place restores every pixel (R162, the source's XOR idempotence, L1-7), and
the second draw reports a collision exactly when some covered pixel was clear before the first. When it does follows R162's
pseudocode and R163 against the sentence of R162's corner cases: log entry 5, DEDUCED. -/
def Obligations.DrawingTwiceRestoresFrame : Prop :=
  ∀ (x y x' y' : RegIx) (n : BitVec 4) (s t : State), exec (.drw x y n) s = .next t →
    (t.reg x').toNat % 64 = (s.reg x).toNat % 64 → (t.reg y').toNat % 32 = (s.reg y).toNat % 32 →
    ∃ u, exec (.drw x' y' n) t = .next u ∧ u.fb = s.fb ∧
      (u.reg 15 = 1 ↔ ∃ X Y, spriteCovers s x y n X Y ∧ Frame.pixel s.fb X Y = false)

/-- The sentence of R162's corner cases that the second of two equal draws reports a collision if the sprite has any set
bit, taken for every framebuffer. R162's own pseudocode and R163 refute it where every covered pixel was set before the
first draw (log entry 5): EXPECTED TO FAIL. -/
def Obligations.SecondDrawAlwaysCollides : Prop :=
  ∀ (x y : RegIx) (n : BitVec 4) (s t u : State), x ≠ 15 → y ≠ 15 →
    (∃ X Y, spriteCovers s x y n X Y) → exec (.drw x y n) s = .next t → exec (.drw x y n) t = .next u → u.reg 15 = 1

/-! ### Timers, keypad and the key wait -/

/-- R180, whole: `FX07` sets V[x] to DT. -/
def Obligations.LdVxDtReadsDelayTimer : Prop :=
  ∀ x : RegIx, decode (opX 0xF007 x) = .ok (.ldVxDt x) ∧
    ∀ s : State, ∃ t, exec (.ldVxDt x) s = .next t ∧ t.reg x = s.dt ∧ otherRegs s t x ∧ advancesByTwo s t ∧
      onlyRegsAndPc s t

/-- R181, whole: `FX15` sets DT to V[x]. -/
def Obligations.LdDtVxSetsDelayTimer : Prop :=
  ∀ x : RegIx, decode (opX 0xF015 x) = .ok (.ldDtVx x) ∧
    ∀ s : State, ∃ t, exec (.ldDtVx x) s = .next t ∧ t.dt = s.reg x ∧ advancesByTwo s t ∧
      t = { s with dt := t.dt, pc := t.pc }

/-- R182: `FX18` sets ST to V[x]; the sound output, the spec's decision D33, is then on exactly when V[x] is not 0. -/
def Obligations.LdStVxSetsSoundTimer : Prop :=
  ∀ x : RegIx, decode (opX 0xF018 x) = .ok (.ldStVx x) ∧
    ∀ s : State, ∃ t, exec (.ldStVx x) s = .next t ∧ t.st = s.reg x ∧
      (transact t .readSoundActive = (t, .bit (decide (s.reg x ≠ 0)))) ∧ advancesByTwo s t ∧
      t = { s with st := t.st, pc := t.pc }

/-- R183, R184, R185: `EX9E` skips exactly when key `V[x] mod 16` is pressed, `EXA1` exactly when it is not (the reduction
of the key index is the spec's decision D15). -/
def Obligations.SkipOnKey : Prop :=
  ∀ x : RegIx, decode (opX 0xE09E x) = .ok (.skp x) ∧ decode (opX 0xE0A1 x) = .ok (.sknp x) ∧
    ∀ s : State,
      (∃ t, exec (.skp x) s = .next t ∧
        t.pc.toNat = (if s.keys.getLsbD ((s.reg x).toNat % 16) = true then (s.pc.toNat + 4) % 4096
          else (s.pc.toNat + 2) % 4096) ∧
        t = { s with pc := t.pc }) ∧
      ∃ t, exec (.sknp x) s = .next t ∧
        t.pc.toNat = (if s.keys.getLsbD ((s.reg x).toNat % 16) = false then (s.pc.toNat + 4) % 4096
          else (s.pc.toNat + 2) % 4096) ∧
        t = { s with pc := t.pc }

/-- R189: `FX0A` enters the key wait: the target register is recorded, the keys held now are masked, and PC stays on it
(the mask is the spec's decision D16). -/
def Obligations.LdVxKEntersKeyWait : Prop :=
  ∀ x : RegIx, decode (opX 0xF00A x) = .ok (.ldVxK x) ∧
    ∀ s : State, exec (.ldVxK x) s = .next { s with waiting := true, waitReg := x, waitMask := s.keys }

/-- R190: a step in the key wait. With no key that is pressed and not masked nothing changes but `started`; with one, the
least such key goes to V[waitReg], the wait ends and PC advances by 2 (least index and mask are the spec's decision D16,
the reduction of PC D3). -/
def Obligations.KeyWaitStep : Prop :=
  ∀ s : State, s.waiting = true →
    ((∀ k, k < 16 → ¬(s.keys.getLsbD k = true ∧ s.waitMask.getLsbD k = false)) →
      step s = .next { s with started := true }) ∧
    ∀ k, k < 16 → s.keys.getLsbD k = true → s.waitMask.getLsbD k = false →
      (∀ j, j < k → ¬(s.keys.getLsbD j = true ∧ s.waitMask.getLsbD j = false)) →
      ∃ t, step s = .next t ∧ (t.reg s.waitReg).toNat = k ∧ otherRegs s t s.waitReg ∧ t.waiting = false ∧
        t.pc.toNat = (s.pc.toNat + 2) % 4096 ∧
        t = { s with v := t.v, waiting := false, pc := t.pc, started := true }

/-! ### The host's transactions and reset -/

/-- R186: a tick decrements each timer that is above 0, changes nothing else and cannot fail. -/
def Obligations.TickCountsDown : Prop :=
  ∀ s : State, ∃ t, transact s .tick = (t, .ok) ∧ t.dt.toNat = s.dt.toNat - 1 ∧ t.st.toNat = s.st.toNat - 1 ∧
    t = { s with dt := t.dt, st := t.st }

/-- R188: setKey records the state of key `index mod 16`; a release also clears that key's bit of the wait mask (the
spec's decision D16); nothing else changes. -/
def Obligations.SetKeyRecordsKey : Prop :=
  ∀ (s : State) (index : Nat) (pressed : Bool), ∃ t, transact s (.setKey index pressed) = (t, .ok) ∧
    t.keys.getLsbD (index % 16) = pressed ∧
    (pressed = true → t.waitMask = s.waitMask) ∧ (pressed = false → t.waitMask.getLsbD (index % 16) = false) ∧
    (∀ k, k ≠ index % 16 → t.keys.getLsbD k = s.keys.getLsbD k ∧ t.waitMask.getLsbD k = s.waitMask.getLsbD k) ∧
    t = { s with keys := t.keys, waitMask := t.waitMask }

/-- R166, whole: consumeDrawFlag returns the flag and clears it, and nothing else changes; from a state with the flag clear,
any transactions none of whose steps runs `00E0` or `DXYN` leave it clear, so a second call after them returns 0. -/
def Obligations.ConsumeDrawFlagReturnsAndClears : Prop :=
  (∀ s : State, transact s .consumeDrawFlag = ({ s with drawFlag := false }, .bit s.drawFlag)) ∧
    ∀ (trs : List Transaction) (s : State),
      (∀ before after, trs = before ++ .step :: after →
        decode (transactAll (transact s .consumeDrawFlag).1 before).fetchWord ≠ .ok .cls ∧
          ∀ x y n, decode (transactAll (transact s .consumeDrawFlag).1 before).fetchWord ≠ .ok (.drw x y n)) →
      (transact (transactAll (transact s .consumeDrawFlag).1 trs) .consumeDrawFlag).2 = .bit false

/-- R65 and R201 before the first step (that window is the spec's decision D24): a ROM over 3584 bytes fails with
RomTooLarge, which records the length (decision D22), and changes nothing; otherwise byte k goes to 0x200 + k, every other
byte stays and nothing but memory changes. -/
def Obligations.LoadCopiesRom : Prop :=
  ∀ (s : State) (rom : List Byte), s.started = false →
    (3584 < rom.length → transact s (.load rom) = (s, .error (.romTooLarge rom.length))) ∧
    (rom.length ≤ 3584 → ∃ t, transact s (.load rom) = (t, .ok) ∧
      (∀ (k : Nat) (h : k < rom.length), t.readByte (0x200 + k) = rom[k]) ∧
      (∀ a, a % 4096 < 0x200 ∨ 0x200 + rom.length ≤ a % 4096 → t.readByte a = s.readByte a) ∧
      t = { s with mem := t.mem })

/-- R233: once a step has run since reset the model refuses `load` (the spec's decision D24) and changes nothing; and a
step that the host takes sets `started`, whatever its outcome (R39). -/
def Obligations.LoadRefusedAfterFirstStep : Prop :=
  ∀ (s : State) (rom : List Byte), (transact s .step).1.started = true ∧
    (s.started = true → transact s (.load rom) = (s, .refused .loadAfterStart))

/-- R230: what reset leaves, from any state, the error and the key wait included (the stack, drawFlag, the wait state and
the keys as 0 are the spec's decisions D25 and D36; FONT_TABLE is the open parameter of D20). The count of random draws is
the model's own and goes on (log entry 2). -/
def Obligations.ResetLeavesResetValues : Prop :=
  ∀ s : State, ∃ t, transact s .reset = (t, .ok) ∧ t.draws = s.draws ∧
    (∀ x : RegIx, t.reg x = 0) ∧ t.i = 0 ∧ t.pc = 0x200 ∧ t.sp = 0 ∧ (∀ k : Fin 16, t.stack[k.val] = 0) ∧
    t.dt = 0 ∧ t.st = 0 ∧ (∀ X Y, Frame.pixel t.fb X Y = false) ∧ t.drawFlag = false ∧ t.keys = 0 ∧
    t.waiting = false ∧ t.waitReg = 0 ∧ t.waitMask = 0 ∧ t.started = false ∧
    (∀ k (h : k < 80), t.readByte (0x050 + k) = Config.fontTable[k]) ∧
    ∀ a, a < 4096 → a < 0x050 ∨ 0x0A0 ≤ a → t.readByte a = 0

/-- R191: the key wait ends only by a step that finds a fresh key, or by reset. -/
def Obligations.KeyWaitEndsOnlyByFreshKeyOrReset : Prop :=
  ∀ (s : State) (tr : Transaction), s.waiting = true → (transact s tr).1.waiting = false →
    tr = .reset ∨ (tr = .step ∧ s.keys &&& ~~~s.waitMask ≠ 0)

/-- The table of R215, column 'state it may change', for every transaction but reset, and what the reads answer. The keys
are written only by setKey (R30); waitMask only by setKey and step; drawFlag only by consumeDrawFlag and step, and cleared
only by consumeDrawFlag (R29); the timers only by tick and step; memory only by load and step; everything else (the general
registers, I, PC, stack, SP, framebuffer, waiting, waitReg, started, the draw count) only by step. The three reads change
nothing (R165, R217, decision D34): pixel (X, Y) is element Y * 64 + X of the 2048 that the framebuffer read answers (R28),
soundActive is `ST ≠ 0` (R211, decision D33), and the register read answers V, I, PC, SP, Stack, DT and ST (R217). -/
def Obligations.TransactionsChangeOnlyTheirState : Prop :=
  ∀ s : State,
    (∀ tr : Transaction, tr ≠ .reset → ∃ t, (transact s tr).1 = t ∧
      ((∀ k p, tr ≠ .setKey k p) → t.keys = s.keys) ∧
      ((∀ k p, tr ≠ .setKey k p) → tr ≠ .step → t.waitMask = s.waitMask) ∧
      (tr ≠ .consumeDrawFlag → tr ≠ .step → t.drawFlag = s.drawFlag) ∧
      (tr ≠ .consumeDrawFlag → s.drawFlag = true → t.drawFlag = true) ∧
      (tr ≠ .tick → tr ≠ .step → t.dt = s.dt ∧ t.st = s.st) ∧
      (tr ≠ .step → t.dt.toNat ≤ s.dt.toNat ∧ t.st.toNat ≤ s.st.toNat) ∧
      ((∀ rom, tr ≠ .load rom) → tr ≠ .step → t.mem = s.mem) ∧
      (tr ≠ .step →
        t = { s with keys := t.keys, waitMask := t.waitMask, drawFlag := t.drawFlag, dt := t.dt, st := t.st, mem := t.mem })) ∧
    (∃ px, transact s .readFramebuffer = (s, .pixels px) ∧ px.length = 2048 ∧
      ∀ (X : Fin 64) (Y : Fin 32), px[Y.val * 64 + X.val]? = some (Frame.pixel s.fb X Y)) ∧
    transact s .readSoundActive = (s, .bit (decide (s.st ≠ 0))) ∧
    ∃ r, transact s .readRegisters = (s, .registers r) ∧ r.v = s.v ∧ r.i = s.i ∧ r.pc = s.pc ∧ r.sp = s.sp ∧
      r.stack = s.stack ∧ r.dt = s.dt ∧ r.st = s.st
end

