-- ==== Sys2Proof/Laws/Decode.lean ====
section
/-! SUPPORT. The fields of the words the encoder builds, and the checks of WellFormed.lean in terms of fields. -/

namespace Sys2Proof

variable (m : BitVec 4) (x y : RegIx) (nnn : Addr) (nn : Byte) (n : BitVec 4) (w : Word)

/-! ### Words and fields as numbers -/

/-- Concatenation as arithmetic. -/
theorem toNat_append_add {p q : Nat} (a : BitVec p) (b : BitVec q) : (a ++ b).toNat = a.toNat * 2 ^ q + b.toNat := by
  rw [BitVec.toNat_append, ← Nat.shiftLeft_add_eq_or_of_lt b.isLt, Nat.shiftLeft_eq]

theorem toNat_extract {p : Nat} (lo len : Nat) (a : BitVec p) :
    (a.extractLsb' lo len).toNat = a.toNat / 2 ^ lo % 2 ^ len := by
  rw [BitVec.extractLsb'_toNat, Nat.shiftRight_eq_div_pow]

theorem wordNNN_toNat : (wordNNN m nnn).toNat = m.toNat * 4096 + nnn.toNat := by
  rw [wordNNN, toNat_append_add]
  omega

theorem wordXNN_toNat : (wordXNN m x nn).toNat = m.toNat * 4096 + x.val * 256 + nn.toNat := by
  have hx : (regBits x).toNat = x.val := rfl
  rw [wordXNN, toNat_append_add, toNat_append_add, hx]
  omega

theorem wordXYN_toNat : (wordXYN m x y n).toNat = m.toNat * 4096 + x.val * 256 + y.val * 16 + n.toNat := by
  have hx : (regBits x).toNat = x.val := rfl
  have hy : (regBits y).toNat = y.val := rfl
  rw [wordXYN, toNat_append_add, toNat_append_add, toNat_append_add, hx, hy]
  omega

theorem majorOf_toNat : (majorOf w).toNat = w.toNat / 4096 % 16 := toNat_extract 12 4 w

theorem fieldX_val : (fieldX w).val = w.toNat / 256 % 16 := toNat_extract 8 4 w

theorem fieldY_val : (fieldY w).val = w.toNat / 16 % 16 := toNat_extract 4 4 w

theorem fieldN_toNat : (fieldN w).toNat = w.toNat % 16 :=
  (toNat_extract 0 4 w).trans (by rw [Nat.pow_zero, Nat.div_one]; rfl)

theorem fieldNN_toNat : (fieldNN w).toNat = w.toNat % 256 :=
  (toNat_extract 0 8 w).trans (by rw [Nat.pow_zero, Nat.div_one]; rfl)

theorem fieldNNN_toNat : (fieldNNN w).toNat = w.toNat % 4096 :=
  (toNat_extract 0 12 w).trans (by rw [Nat.pow_zero, Nat.div_one]; rfl)

/-! ### The fields of the encoder's words -/

@[simp] theorem majorOf_wordNNN : majorOf (wordNNN m nnn) = m := by
  have := m.isLt; have := nnn.isLt
  exact BitVec.eq_of_toNat_eq (by rw [majorOf_toNat, wordNNN_toNat]; omega)

@[simp] theorem fieldNNN_wordNNN : fieldNNN (wordNNN m nnn) = nnn := by
  have := m.isLt; have := nnn.isLt
  exact BitVec.eq_of_toNat_eq (by rw [fieldNNN_toNat, wordNNN_toNat]; omega)

@[simp] theorem majorOf_wordXNN : majorOf (wordXNN m x nn) = m := by
  have := m.isLt; have := x.isLt; have := nn.isLt
  exact BitVec.eq_of_toNat_eq (by rw [majorOf_toNat, wordXNN_toNat]; omega)

@[simp] theorem fieldX_wordXNN : fieldX (wordXNN m x nn) = x := by
  have := m.isLt; have := x.isLt; have := nn.isLt
  exact Fin.ext (by rw [fieldX_val, wordXNN_toNat]; omega)

@[simp] theorem fieldNN_wordXNN : fieldNN (wordXNN m x nn) = nn := by
  have := m.isLt; have := x.isLt; have := nn.isLt
  exact BitVec.eq_of_toNat_eq (by rw [fieldNN_toNat, wordXNN_toNat]; omega)

@[simp] theorem majorOf_wordXYN : majorOf (wordXYN m x y n) = m := by
  have := m.isLt; have := x.isLt; have := y.isLt; have := n.isLt
  exact BitVec.eq_of_toNat_eq (by rw [majorOf_toNat, wordXYN_toNat]; omega)

@[simp] theorem fieldX_wordXYN : fieldX (wordXYN m x y n) = x := by
  have := m.isLt; have := x.isLt; have := y.isLt; have := n.isLt
  exact Fin.ext (by rw [fieldX_val, wordXYN_toNat]; omega)

@[simp] theorem fieldY_wordXYN : fieldY (wordXYN m x y n) = y := by
  have := m.isLt; have := x.isLt; have := y.isLt; have := n.isLt
  exact Fin.ext (by rw [fieldY_val, wordXYN_toNat]; omega)

@[simp] theorem fieldN_wordXYN : fieldN (wordXYN m x y n) = n := by
  have := m.isLt; have := x.isLt; have := y.isLt; have := n.isLt
  exact BitVec.eq_of_toNat_eq (by rw [fieldN_toNat, wordXYN_toNat]; omega)

/-! ### Encodings as the rules write them, `base | x << 8 | nn` -/

/-- An OR of a multiple of a power of two and a smaller number is their sum. -/
theorem or_eq_add {i a b : Nat} (hb : b < 2 ^ i) : 2 ^ i * a ||| b = 2 ^ i * a + b :=
  (Nat.two_pow_add_eq_or_of_lt hb a).symm

/-- `base | nnn`, with the major opcode in the top nibble of the base. -/
theorem orForm_nnn : m.setWidth 16 <<< 12 ||| nnn.setWidth 16 = wordNNN m nnn := by
  have hm := m.isLt
  have hn : nnn.toNat < 2 ^ 12 := nnn.isLt
  refine BitVec.eq_of_toNat_eq ?_
  have h1 : (m.setWidth 16 <<< 12).toNat = 2 ^ 12 * m.toNat := by
    simp only [BitVec.toNat_shiftLeft, BitVec.toNat_setWidth, Nat.shiftLeft_eq]; omega
  have h2 : (nnn.setWidth 16).toNat = nnn.toNat := by simp only [BitVec.toNat_setWidth]; omega
  rw [BitVec.toNat_or, h1, h2, or_eq_add hn, wordNNN_toNat]; omega

/-- `base | x << 8`, as a number. -/
theorem orForm_x_toNat :
    (m.setWidth 16 <<< 12 ||| BitVec.ofNat 16 x.val <<< 8).toNat = m.toNat * 4096 + x.val * 256 := by
  have hm := m.isLt
  have hx := x.isLt
  have h1 : (m.setWidth 16 <<< 12).toNat = 2 ^ 12 * m.toNat := by
    simp only [BitVec.toNat_shiftLeft, BitVec.toNat_setWidth, Nat.shiftLeft_eq]; omega
  have h2 : (BitVec.ofNat 16 x.val <<< 8).toNat = x.val * 256 := by
    simp only [BitVec.toNat_shiftLeft, BitVec.toNat_ofNat, Nat.shiftLeft_eq]; omega
  rw [BitVec.toNat_or, h1, h2, or_eq_add (by omega)]; omega

/-- `base | x << 8 | nn`. -/
theorem orForm_xnn : m.setWidth 16 <<< 12 ||| BitVec.ofNat 16 x.val <<< 8 ||| nn.setWidth 16 = wordXNN m x nn := by
  have hn : nn.toNat < 2 ^ 8 := nn.isLt
  refine BitVec.eq_of_toNat_eq ?_
  have h2 : (nn.setWidth 16).toNat = nn.toNat := by simp only [BitVec.toNat_setWidth]; omega
  have h1 : m.toNat * 4096 + x.val * 256 = 2 ^ 8 * (m.toNat * 16 + x.val) := by omega
  rw [BitVec.toNat_or, orForm_x_toNat, h1, h2, or_eq_add hn, wordXNN_toNat]; omega

/-- `base | x << 8 | y << 4 | n`. -/
theorem orForm_xyn : m.setWidth 16 <<< 12 ||| BitVec.ofNat 16 x.val <<< 8 ||| BitVec.ofNat 16 y.val <<< 4 |||
    n.setWidth 16 = wordXYN m x y n := by
  have hy := y.isLt
  have hn : n.toNat < 2 ^ 4 := n.isLt
  refine BitVec.eq_of_toNat_eq ?_
  have h2 : (BitVec.ofNat 16 y.val <<< 4).toNat = 16 * y.val := by
    simp only [BitVec.toNat_shiftLeft, BitVec.toNat_ofNat, Nat.shiftLeft_eq]; omega
  have h3 : (n.setWidth 16).toNat = n.toNat := by simp only [BitVec.toNat_setWidth]; omega
  have h1 : m.toNat * 4096 + x.val * 256 = 2 ^ 8 * (m.toNat * 16 + x.val) := by omega
  rw [BitVec.toNat_or, BitVec.toNat_or, orForm_x_toNat, h1, h2, h3, or_eq_add (by omega)]
  have h4 : 2 ^ 8 * (m.toNat * 16 + x.val) + 16 * y.val = 2 ^ 4 * (m.toNat * 256 + x.val * 16 + y.val) := by omega
  rw [h4, or_eq_add hn, wordXYN_toNat]; omega

/-- An OR with a function nibble in the base is an OR with it at the end. -/
theorem or_function_last (a b c : Word) : a ||| c ||| b = a ||| b ||| c := by
  rw [BitVec.or_assoc, BitVec.or_comm c b, ← BitVec.or_assoc]

/-! ### The checks of R78 in terms of fields -/

theorem nibbleAt_major : WellFormed.nibbleAt w 12 = (majorOf w).toNat := (majorOf_toNat w).symm

theorem nibbleAt_low : WellFormed.nibbleAt w 0 = (fieldN w).toNat := by
  rw [fieldN_toNat, WellFormed.nibbleAt, Nat.pow_zero, Nat.div_one]

theorem lowByte_eq : w.toNat % 256 = (fieldNN w).toNat := (fieldNN_toNat w).symm

/-- A word of format NNN is legal when its major opcode has no further check. -/
theorem legalWord_wordNNN (h : m ∈ [0x1#4, 0x2#4, 0xA#4, 0xB#4]) : legalWord (wordNNN m nnn) = true := by
  simp only [List.mem_cons, List.not_mem_nil, or_false] at h
  rcases h with rfl | rfl | rfl | rfl <;>
    simp [legalWord, WellFormed.major0Ok, WellFormed.skipRegOk, WellFormed.aluOk, WellFormed.keyOk, WellFormed.miscOk,
      nibbleAt_major]

/-- A word of format XNN or XFF is legal when its major opcode has no further check or its low byte passes it. -/
theorem legalWord_wordXNN (h : m ∈ [0x3#4, 0x4#4, 0x6#4, 0x7#4, 0xC#4] ∨
      (m = 0xE#4 ∧ [0x9E, 0xA1].contains nn.toNat = true) ∨
      (m = 0xF#4 ∧ [0x07, 0x0A, 0x15, 0x18, 0x1E, 0x29, 0x33, 0x55, 0x65].contains nn.toNat = true)) :
    legalWord (wordXNN m x nn) = true := by
  simp only [List.mem_cons, List.not_mem_nil, or_false] at h
  rcases h with (rfl | rfl | rfl | rfl | rfl) | ⟨rfl, h⟩ | ⟨rfl, h⟩ <;>
    simp [legalWord, WellFormed.major0Ok, WellFormed.skipRegOk, WellFormed.aluOk, WellFormed.keyOk, WellFormed.miscOk,
      nibbleAt_major, lowByte_eq]
  all_goals simpa using h

/-- A word of format XY0, XYF or XYN is legal when its low nibble passes its major opcode's check. -/
theorem legalWord_wordXYN (h : (m = 0xD#4) ∨ ((m = 0x5#4 ∨ m = 0x9#4) ∧ n = 0#4) ∨
      (m = 0x8#4 ∧ [0x8, 0x9, 0xA, 0xB, 0xC, 0xD, 0xF].contains n.toNat = false)) :
    legalWord (wordXYN m x y n) = true := by
  rcases h with rfl | ⟨rfl | rfl, rfl⟩ | ⟨rfl, h⟩ <;>
    simp [legalWord, WellFormed.major0Ok, WellFormed.skipRegOk, WellFormed.aluOk, WellFormed.keyOk, WellFormed.miscOk,
      nibbleAt_major, nibbleAt_low]
  all_goals simpa using h

end Sys2Proof
end

