-- ==== Sys2Proof/Laws/Draw.lean ====
section
/-! SUPPORT. What drawing a sprite does, pixel by pixel: each pixel the sprite covers with a set bit is inverted once,
every other pixel stays, and the collision is set when a covered pixel was set (spec/44_display.md R161 to R163). -/

namespace Sys2Proof.Machine

/-- Pixel (X, Y) takes a set bit from a sprite row `b` that lands on row `row`. -/
def rowHits (ox oy row : Nat) (b : Byte) (X : Fin 64) (Y : Fin 32) : Prop :=
  ∃ col, col < 8 ∧ pixelX ox col = X ∧ pixelY oy row = Y ∧ spriteBit b col = true

/-- Pixel (X, Y) takes a set bit from one of the rows `bs`, the first of which is row `row`. -/
def rowsHit (ox oy row : Nat) (bs : List Byte) (X : Fin 64) (Y : Fin 32) : Prop :=
  ∃ r, ∃ h : r < bs.length, rowHits ox oy (row + r) bs[r] X Y

theorem Frame.pixel_flip (fb : Frame) (x X : Fin 64) (y Y : Fin 32) :
    Frame.pixel (Frame.flip fb x y) X Y = if X = x ∧ Y = y then !Frame.pixel fb X Y else Frame.pixel fb X Y := by
  unfold Frame.pixel Frame.flip
  by_cases hy : Y = y
  · subst hy
    by_cases hx : X = x
    · subst hx; simp
    · have : x.val ≠ X.val := fun e => hx (Fin.ext e.symm)
      simp [hx, this]
  · have : y.val ≠ Y.val := fun e => hy (Fin.ext e.symm)
    simp [hy, this]

/-- Two frames with equal pixels are equal. -/
theorem Frame.ext_pixel {f g : Frame} (h : ∀ X Y, Frame.pixel f X Y = Frame.pixel g X Y) : f = g :=
  Vector.ext fun y hy => Vector.ext fun x hx => h ⟨x, hx⟩ ⟨y, hy⟩

theorem Frame.pixel_blank (X : Fin 64) (Y : Fin 32) : Frame.pixel Frame.blank X Y = false := by
  simp [Frame.pixel, Frame.blank]

theorem pixelX_inj {ox c d : Nat} (hc : c < 8) (hd : d < 8) (h : pixelX ox c = pixelX ox d) : c = d := by
  have : (ox + c) % 64 = (ox + d) % 64 := congrArg Fin.val h
  omega

theorem pixelY_inj {oy r q : Nat} (hr : r < 32) (hq : q < 32) (h : pixelY oy r = pixelY oy q) : r = q := by
  have : (oy + r) % 32 = (oy + q) % 32 := congrArg Fin.val h
  omega

/-- Drawing a list of distinct columns of one row. -/
theorem drawCols_spec (ox oy row : Nat) (b : Byte) (cols : List Nat) (hn : cols.Nodup) (h8 : ∀ c ∈ cols, c < 8)
    (acc : Frame × Bool) :
    (∀ X Y, Frame.pixel (cols.foldl (drawPixel ox oy row b) acc).1 X Y =
        (Frame.pixel acc.1 X Y ^^
          decide (∃ c ∈ cols, pixelX ox c = X ∧ pixelY oy row = Y ∧ spriteBit b c = true))) ∧
      ((cols.foldl (drawPixel ox oy row b) acc).2 = true ↔
        acc.2 = true ∨ ∃ c ∈ cols, spriteBit b c = true ∧
          Frame.pixel acc.1 (pixelX ox c) (pixelY oy row) = true) := by
  induction cols generalizing acc with
  | nil => simp
  | cons c cols ih =>
    obtain ⟨hc, hn⟩ := List.nodup_cons.1 hn
    have h8c : c < 8 := h8 c (by simp)
    have h8' : ∀ d ∈ cols, d < 8 := fun d hd => h8 d (by simp [hd])
    obtain ⟨ihp, ihc⟩ := ih hn h8' (drawPixel ox oy row b acc c)
    have hne : ∀ d ∈ cols, pixelX ox d ≠ pixelX ox c := fun d hd e =>
      hc (pixelX_inj (h8' d hd) h8c e ▸ hd)
    have hdp : ∀ X Y, Frame.pixel (drawPixel ox oy row b acc c).1 X Y =
        (Frame.pixel acc.1 X Y ^^ decide (pixelX ox c = X ∧ pixelY oy row = Y ∧ spriteBit b c = true)) := by
      intro X Y
      unfold drawPixel
      by_cases hb : spriteBit b c = true
      · rw [if_pos hb, Frame.pixel_flip]
        by_cases hxy : X = pixelX ox c ∧ Y = pixelY oy row
        · obtain ⟨rfl, rfl⟩ := hxy; simp [hb]
        · rw [if_neg hxy]
          have : ¬(pixelX ox c = X ∧ pixelY oy row = Y) := fun h => hxy ⟨h.1.symm, h.2.symm⟩
          simp only [hb, and_true, this, decide_false, Bool.xor_false]
      · simp [hb]
    refine ⟨fun X Y => ?_, ?_⟩
    · rw [List.foldl_cons, ihp, hdp, Bool.xor_assoc]
      congr 1
      by_cases h1 : pixelX ox c = X ∧ pixelY oy row = Y ∧ spriteBit b c = true
      · have h2 : ¬∃ d ∈ cols, pixelX ox d = X ∧ pixelY oy row = Y ∧ spriteBit b d = true := fun ⟨d, hd, hx, _⟩ =>
          hne d hd (hx.trans h1.1.symm)
        have h3 : ∃ d ∈ c :: cols, pixelX ox d = X ∧ pixelY oy row = Y ∧ spriteBit b d = true := ⟨c, by simp, h1⟩
        rw [decide_eq_true h1, decide_eq_false h2, decide_eq_true h3]; rfl
      · have : (∃ d ∈ c :: cols, pixelX ox d = X ∧ pixelY oy row = Y ∧ spriteBit b d = true) ↔
            ∃ d ∈ cols, pixelX ox d = X ∧ pixelY oy row = Y ∧ spriteBit b d = true := by
          simp only [List.mem_cons, exists_eq_or_imp, h1, false_or]
        simp only [h1, this, decide_false, Bool.false_xor]
    · have hacc : (drawPixel ox oy row b acc c).2 = true ↔
          acc.2 = true ∨ (spriteBit b c = true ∧ Frame.pixel acc.1 (pixelX ox c) (pixelY oy row) = true) := by
        unfold drawPixel
        by_cases hb : spriteBit b c = true <;> simp [hb]
      have hrest : (∃ d ∈ cols, spriteBit b d = true ∧
            Frame.pixel (drawPixel ox oy row b acc c).1 (pixelX ox d) (pixelY oy row) = true) ↔
          ∃ d ∈ cols, spriteBit b d = true ∧ Frame.pixel acc.1 (pixelX ox d) (pixelY oy row) = true := by
        refine exists_congr fun d => and_congr_right fun hd => and_congr_right fun _ => ?_
        rw [hdp, decide_eq_false fun h => hne d hd h.1.symm, Bool.xor_false]
      rw [List.foldl_cons, ihc, hacc, hrest]
      simp only [List.mem_cons, exists_eq_or_imp, or_assoc]

/-- What drawing one row does. -/
theorem drawRow_spec (ox oy row : Nat) (b : Byte) (acc : Frame × Bool) :
    (∀ X Y, Frame.pixel (drawRow ox oy row b acc).1 X Y = true ↔
        ¬(Frame.pixel acc.1 X Y = true ↔ rowHits ox oy row b X Y)) ∧
      ((drawRow ox oy row b acc).2 = true ↔
        acc.2 = true ∨ ∃ X Y, rowHits ox oy row b X Y ∧ Frame.pixel acc.1 X Y = true) := by
  have hcols : ∀ c, c ∈ [0, 1, 2, 3, 4, 5, 6, 7] ↔ c < 8 := fun c => by simp; omega
  obtain ⟨hp, hc⟩ := drawCols_spec ox oy row b [0, 1, 2, 3, 4, 5, 6, 7] (by decide) (fun c h => (hcols c).1 h) acc
  refine ⟨fun X Y => ?_, ?_⟩
  · have : (∃ c ∈ [0, 1, 2, 3, 4, 5, 6, 7], pixelX ox c = X ∧ pixelY oy row = Y ∧ spriteBit b c = true) ↔
        rowHits ox oy row b X Y := exists_congr fun c => and_congr_left' (hcols c)
    unfold drawRow
    by_cases h : rowHits ox oy row b X Y
    · rw [hp, decide_eq_true (this.2 h)]
      cases Frame.pixel acc.1 X Y <;> simp [h]
    · rw [hp, decide_eq_false fun e => h (this.1 e)]
      cases Frame.pixel acc.1 X Y <;> simp [h]
  · unfold drawRow
    rw [hc]
    refine or_congr_right ⟨?_, ?_⟩
    · rintro ⟨c, hc, hb, hx⟩
      exact ⟨_, _, ⟨c, (hcols c).1 hc, rfl, rfl, hb⟩, hx⟩
    · rintro ⟨X, Y, ⟨c, hc, rfl, rfl, hb⟩, hx⟩
      exact ⟨c, (hcols c).2 hc, hb, hx⟩

theorem rowsHit_cons (ox oy row : Nat) (b : Byte) (bs : List Byte) (X : Fin 64) (Y : Fin 32) :
    rowsHit ox oy row (b :: bs) X Y ↔ rowHits ox oy row b X Y ∨ rowsHit ox oy (row + 1) bs X Y := by
  constructor
  · rintro ⟨r, hr, h⟩
    cases r with
    | zero => exact .inl h
    | succ r => exact .inr ⟨r, by simpa using hr, by rwa [Nat.add_assoc, Nat.add_comm 1 r]⟩
  · rintro (h | ⟨r, hr, h⟩)
    · exact ⟨0, by simp, h⟩
    · exact ⟨r + 1, by simpa using hr, by rwa [Nat.add_assoc, Nat.add_comm 1 r] at h⟩

/-- What drawing the rows of a sprite does, for a sprite that ends by row 32. -/
theorem drawRows_spec (ox oy : Nat) (bs : List Byte) (row : Nat) (hl : row + bs.length ≤ 32) (acc : Frame × Bool) :
    (∀ X Y, Frame.pixel (drawRows ox oy row bs acc).1 X Y = true ↔
        ¬(Frame.pixel acc.1 X Y = true ↔ rowsHit ox oy row bs X Y)) ∧
      ((drawRows ox oy row bs acc).2 = true ↔
        acc.2 = true ∨ ∃ X Y, rowsHit ox oy row bs X Y ∧ Frame.pixel acc.1 X Y = true) := by
  induction bs generalizing row acc with
  | nil => simp [drawRows, rowsHit]
  | cons b bs ih =>
    simp only [List.length_cons] at hl
    obtain ⟨hrp, hrc⟩ := drawRow_spec ox oy row b acc
    obtain ⟨ihp, ihc⟩ := ih (row + 1) (by omega) (drawRow ox oy row b acc)
    have hdisj : ∀ X Y, rowHits ox oy row b X Y → ¬rowsHit ox oy (row + 1) bs X Y := by
      rintro X Y ⟨_, _, _, hy, _⟩ ⟨r, hr, _, _, _, hy', _⟩
      have := pixelY_inj (by omega) (by omega) (hy.trans hy'.symm)
      omega
    refine ⟨fun X Y => ?_, ?_⟩
    · rw [drawRows, ihp, hrp, rowsHit_cons]
      have := hdisj X Y
      tauto
    · rw [drawRows, ihc, hrc, or_assoc]
      refine or_congr_right ?_
      constructor
      · rintro (⟨X, Y, h, hx⟩ | ⟨X, Y, h, hx⟩)
        · exact ⟨X, Y, (rowsHit_cons ..).2 (.inl h), hx⟩
        · refine ⟨X, Y, (rowsHit_cons ..).2 (.inr h), ?_⟩
          have := (hrp X Y).1 hx
          have := hdisj X Y
          tauto
      · rintro ⟨X, Y, h, hx⟩
        rcases (rowsHit_cons ..).1 h with h | h
        · exact .inl ⟨X, Y, h, hx⟩
        · refine .inr ⟨X, Y, h, (hrp X Y).2 ?_⟩
          have := hdisj X Y
          tauto

theorem State.spriteRows_length (s : State) (n : Nat) : (s.spriteRows n).length = n := by simp [State.spriteRows]

theorem State.spriteRows_getElem (s : State) (n r : Nat) (h : r < (s.spriteRows n).length) :
    (s.spriteRows n)[r] = s.readByte (s.dataAddr + r) := by simp [State.spriteRows]

end Sys2Proof.Machine
end

