-- ==== Sys2Proof/Laws/Memory.lean ====
section
/-! SUPPORT. The laws of memory: a read after a write, the dropped font write, and the canonical form. -/

namespace Sys2Proof.Machine

variable {m : Memory} {a b addr addr' : Nat} {v : Byte}

theorem mod_mod_4096 (a : Nat) : a % 4096 % 4096 = a % 4096 := Nat.mod_mod a 4096

theorem Memory.read_insert_same (m : Memory) (a : Nat) (v : Byte) (h : ∀ c ∈ m, c.1 ≠ a) :
    Memory.read (Memory.insert m a v) a = v := by
  induction m with
  | nil => simp [Memory.insert, Memory.read]
  | cons c m ih =>
    have hc : c.1 ≠ a := h c (by simp)
    have hm : ∀ d ∈ m, d.1 ≠ a := fun d hd => h d (by simp [hd])
    by_cases hlt : a < c.1 <;> simp [Memory.insert, Memory.read, hlt, hc, ih hm]

theorem Memory.read_insert_ne (m : Memory) (h : b ≠ a) : Memory.read (Memory.insert m a v) b = Memory.read m b := by
  induction m with
  | nil => simp [Memory.insert, Memory.read, Ne.symm h]
  | cons c m ih =>
    by_cases hlt : a < c.1
    · simp [Memory.insert, Memory.read, hlt, Ne.symm h]
    · simp [Memory.insert, Memory.read, hlt, ih]

/-- An address without a cell reads as reset left it. -/
theorem Memory.read_of_not_listed (m : Memory) (a : Nat) (h : ∀ c ∈ m, c.1 ≠ a) :
    Memory.read m a = unlistedByte a := by
  induction m with
  | nil => rfl
  | cons c m ih => simp [Memory.read, h c (by simp), ih fun d hd => h d (by simp [hd])]

theorem Memory.read_filter_ne (m : Memory) (h : b ≠ a) :
    Memory.read (m.filter fun c => c.1 != a) b = Memory.read m b := by
  induction m with
  | nil => rfl
  | cons c m ih =>
    by_cases hc : c.1 = a
    · have : c.1 ≠ b := fun e => h (e ▸ hc)
      simp [hc, Memory.read, ih, Ne.symm h]
    · simp [hc, Memory.read, ih]

/-- Read after write at the same address, in every memory. -/
@[simp] theorem Memory.read_set_same (m : Memory) (a : Nat) (v : Byte) : Memory.read (Memory.set m a v) a = v := by
  have hr : ∀ c ∈ m.filter fun c => c.1 != a, c.1 ≠ a := fun c hc => by simpa using (List.mem_filter.1 hc).2
  by_cases hv : v = unlistedByte a
  · simp only [Memory.set, hv, if_true]
    exact Memory.read_of_not_listed _ _ hr
  · simp only [Memory.set, hv, if_false]
    exact Memory.read_insert_same _ _ _ hr

/-- A write leaves every other address alone. -/
theorem Memory.read_set_ne (m : Memory) (v : Byte) (h : b ≠ a) : Memory.read (Memory.set m a v) b = Memory.read m b := by
  by_cases hv : v = unlistedByte a
  · simp [Memory.set, hv, Memory.read_filter_ne _ h]
  · simp [Memory.set, hv, Memory.read_insert_ne _ h, Memory.read_filter_ne _ h]

/-! ### `read8` and `write8` -/

/-- `MemRead` after `MemWrite`: the byte at the written address unless that is a font address, and every other address
as before (R13, R51, R55). -/
theorem Memory.load_store (m : Memory) (addr addr' : Nat) (v : Byte) :
    Memory.load (Memory.store m addr v) addr' =
      if addr' % 4096 = addr % 4096 ∧ isFontAddr (addr % 4096) = false then v else Memory.load m addr' := by
  unfold Memory.load Memory.store
  by_cases hf : isFontAddr (addr % 4096) = true
  · simp [hf]
  · by_cases he : addr' % 4096 = addr % 4096
    · simp [hf, he]
    · simp [hf, he, Memory.read_set_ne _ _ he]

/-- A font byte is never changed by `write8`. -/
theorem Memory.load_store_font (m : Memory) (addr : Nat) (v : Byte) (h : isFontAddr (addr' % 4096) = true) :
    Memory.load (Memory.store m addr v) addr' = Memory.load m addr' := by
  rw [Memory.load_store]
  split
  · rename_i hc; rw [hc.1, hc.2] at h; exact absurd h (by simp)
  · rfl

/-- A font byte is never changed by a run of writes. -/
theorem Memory.load_storeList_font (bs : List Byte) (m : Memory) (addr : Nat) (h : isFontAddr (addr' % 4096) = true) :
    Memory.load (Memory.storeList m addr bs) addr' = Memory.load m addr' := by
  induction bs generalizing m addr with
  | nil => rfl
  | cons b bs ih => rw [Memory.storeList, ih, Memory.load_store_font _ _ _ h]

/-- A run of writes leaves every address outside it alone. -/
theorem Memory.load_storeList_outside (bs : List Byte) (m : Memory) (addr : Nat)
    (h : ∀ k, k < bs.length → (addr + k) % 4096 ≠ addr' % 4096) :
    Memory.load (Memory.storeList m addr bs) addr' = Memory.load m addr' := by
  induction bs generalizing m addr with
  | nil => rfl
  | cons b bs ih =>
    rw [Memory.storeList, ih, Memory.load_store, if_neg]
    · exact fun hc => h 0 (by simp) (by simpa using hc.1.symm)
    · intro k hk
      have := h (k + 1) (by simpa using hk)
      rwa [Nat.add_assoc, Nat.add_comm 1 k]

/-- A run of at most 4096 writes puts its k-th byte at its k-th address, unless that is a font address. -/
theorem Memory.load_storeList_at (bs : List Byte) (m : Memory) (addr k : Nat) (hk : k < bs.length)
    (hl : bs.length ≤ 4096) (hf : isFontAddr ((addr + k) % 4096) = false) :
    Memory.load (Memory.storeList m addr bs) (addr + k) = bs[k] := by
  induction bs generalizing m addr k with
  | nil => simp at hk
  | cons b bs ih =>
    simp only [List.length_cons] at hk hl
    cases k with
    | zero =>
      rw [Memory.storeList, Memory.load_storeList_outside, Memory.load_store]
      · rw [if_pos ⟨rfl, by simpa using hf⟩]; rfl
      · intro j hj; omega
    | succ k =>
      have he : addr + (k + 1) = addr + 1 + k := by omega
      rw [Memory.storeList, he, ih _ _ _ (by omega) (by omega) (by rwa [← he])]
      rfl

/-! ### The canonical form -/

theorem Memory.mem_insert {c : Host.Cell} : c ∈ Memory.insert m a v ↔ c = (a, v) ∨ c ∈ m := by
  induction m with
  | nil => simp [Memory.insert]
  | cons d m ih =>
    by_cases hlt : a < d.1
    · simp [Memory.insert, hlt]
    · simp only [Memory.insert, hlt, if_false, List.mem_cons, ih]; tauto

theorem Memory.sorted_insert (hs : m.Pairwise fun c d => c.1 < d.1) (h : ∀ c ∈ m, c.1 ≠ a) :
    (Memory.insert m a v).Pairwise fun c d => c.1 < d.1 := by
  induction m with
  | nil => simp [Memory.insert]
  | cons d m ih =>
    obtain ⟨hd, hs⟩ := List.pairwise_cons.1 hs
    have hda : d.1 ≠ a := h d (by simp)
    by_cases hlt : a < d.1
    · simp only [Memory.insert, hlt, if_true, List.pairwise_cons]
      refine ⟨fun c hc => ?_, hd, hs⟩
      rcases List.mem_cons.1 hc with rfl | hc
      · exact hlt
      · exact Nat.lt_trans hlt (hd c hc)
    · simp only [Memory.insert, hlt, if_false, List.pairwise_cons]
      refine ⟨fun c hc => ?_, ih hs fun c hc => h c (by simp [hc])⟩
      rcases Memory.mem_insert.1 hc with rfl | hc
      · omega
      · exact hd c hc

/-- The raw write at a reduced address keeps the canonical form. -/
theorem Memory.wf_set (hm : Memory.wf m) (ha : a < 4096) : Memory.wf (Memory.set m a v) := by
  have hs : (m.filter fun c => c.1 != a).Pairwise fun c d => c.1 < d.1 := hm.1.filter _
  have hc : ∀ c ∈ m.filter fun c => c.1 != a, c.1 ≠ a ∧ c.1 < 4096 ∧ c.2 ≠ unlistedByte c.1 := fun c h =>
    ⟨by simpa using (List.mem_filter.1 h).2, hm.2 c (List.mem_filter.1 h).1⟩
  by_cases hv : v = unlistedByte a
  · simp only [Memory.set, hv, if_true]
    exact ⟨hs, fun c h => (hc c h).2⟩
  · simp only [Memory.set, hv, if_false]
    refine ⟨Memory.sorted_insert hs fun c h => (hc c h).1, fun c h => ?_⟩
    rcases Memory.mem_insert.1 h with rfl | h
    · exact ⟨ha, hv⟩
    · exact (hc c h).2

/-- A cell after a raw write is the new one or was there before. -/
theorem Memory.mem_set {c : Host.Cell} (h : c ∈ Memory.set m a v) : c.1 = a ∨ c ∈ m := by
  by_cases hv : v = unlistedByte a
  · simp only [Memory.set, hv, if_true] at h
    exact .inr (List.mem_filter.1 h).1
  · simp only [Memory.set, hv, if_false] at h
    rcases Memory.mem_insert.1 h with rfl | h
    · exact .inl rfl
    · exact .inr (List.mem_filter.1 h).1

/-- The two memory clauses of the invariant: the canonical form, and no font byte listed. -/
abbrev Memory.good (m : Memory) : Prop := Memory.wf m ∧ ∀ c ∈ m, isFontAddr c.1 = false

theorem Memory.good_store (hm : Memory.good m) : Memory.good (Memory.store m addr v) := by
  unfold Memory.store
  split
  · exact hm
  · rename_i hf
    refine ⟨Memory.wf_set hm.1 (Nat.mod_lt _ (by decide)), fun c hc => ?_⟩
    rcases Memory.mem_set hc with h | h
    · rw [h]; simpa using hf
    · exact hm.2 c h

theorem Memory.good_storeList (bs : List Byte) (hm : Memory.good m) : Memory.good (Memory.storeList m addr bs) := by
  induction bs generalizing m addr with
  | nil => exact hm
  | cons b bs ih => exact ih (Memory.good_store hm)

/-- In a good memory every font address reads as the font table's byte (R54, R55). -/
theorem Memory.load_font (hm : Memory.good m) (h : isFontAddr (addr % 4096) = true) :
    Memory.load m addr = unlistedByte (addr % 4096) :=
  Memory.read_of_not_listed _ _ fun c hc e => by simpa [e, h] using hm.2 c hc

end Sys2Proof.Machine
end

