-- ==== Sys2Proof/Laws/State.lean ====
section
/-! SUPPORT. What each named update of the state does to each field: one lemma per field per update, true by rfl, so
that no later proof unfolds a record update. -/

namespace Sys2Proof.Machine

variable (s : State)

@[simp] theorem State.setMem_v (m : Memory) : (s.setMem m).v = s.v := rfl
@[simp] theorem State.setMem_i (m : Memory) : (s.setMem m).i = s.i := rfl
@[simp] theorem State.setMem_pc (m : Memory) : (s.setMem m).pc = s.pc := rfl
@[simp] theorem State.setMem_stack (m : Memory) : (s.setMem m).stack = s.stack := rfl
@[simp] theorem State.setMem_sp (m : Memory) : (s.setMem m).sp = s.sp := rfl
@[simp] theorem State.setMem_dt (m : Memory) : (s.setMem m).dt = s.dt := rfl
@[simp] theorem State.setMem_st (m : Memory) : (s.setMem m).st = s.st := rfl
@[simp] theorem State.setMem_fb (m : Memory) : (s.setMem m).fb = s.fb := rfl
@[simp] theorem State.setMem_drawFlag (m : Memory) : (s.setMem m).drawFlag = s.drawFlag := rfl
@[simp] theorem State.setMem_keys (m : Memory) : (s.setMem m).keys = s.keys := rfl
@[simp] theorem State.setMem_waiting (m : Memory) : (s.setMem m).waiting = s.waiting := rfl
@[simp] theorem State.setMem_waitReg (m : Memory) : (s.setMem m).waitReg = s.waitReg := rfl
@[simp] theorem State.setMem_waitMask (m : Memory) : (s.setMem m).waitMask = s.waitMask := rfl
@[simp] theorem State.setMem_mem (m : Memory) : (s.setMem m).mem = m := rfl
@[simp] theorem State.setMem_started (m : Memory) : (s.setMem m).started = s.started := rfl
@[simp] theorem State.setMem_draws (m : Memory) : (s.setMem m).draws = s.draws := rfl
@[simp] theorem State.setMem_reg (m : Memory) (r : RegIx) : (s.setMem m).reg r = s.reg r := rfl
@[simp] theorem State.setMem_dataAddr (m : Memory) : (s.setMem m).dataAddr = s.dataAddr := rfl

@[simp] theorem State.writeByte_v (a : Nat) (b : Byte) : (s.writeByte a b).v = s.v := rfl
@[simp] theorem State.writeByte_i (a : Nat) (b : Byte) : (s.writeByte a b).i = s.i := rfl
@[simp] theorem State.writeByte_pc (a : Nat) (b : Byte) : (s.writeByte a b).pc = s.pc := rfl
@[simp] theorem State.writeByte_stack (a : Nat) (b : Byte) : (s.writeByte a b).stack = s.stack := rfl
@[simp] theorem State.writeByte_sp (a : Nat) (b : Byte) : (s.writeByte a b).sp = s.sp := rfl
@[simp] theorem State.writeByte_dt (a : Nat) (b : Byte) : (s.writeByte a b).dt = s.dt := rfl
@[simp] theorem State.writeByte_st (a : Nat) (b : Byte) : (s.writeByte a b).st = s.st := rfl
@[simp] theorem State.writeByte_fb (a : Nat) (b : Byte) : (s.writeByte a b).fb = s.fb := rfl
@[simp] theorem State.writeByte_drawFlag (a : Nat) (b : Byte) : (s.writeByte a b).drawFlag = s.drawFlag := rfl
@[simp] theorem State.writeByte_keys (a : Nat) (b : Byte) : (s.writeByte a b).keys = s.keys := rfl
@[simp] theorem State.writeByte_waiting (a : Nat) (b : Byte) : (s.writeByte a b).waiting = s.waiting := rfl
@[simp] theorem State.writeByte_waitReg (a : Nat) (b : Byte) : (s.writeByte a b).waitReg = s.waitReg := rfl
@[simp] theorem State.writeByte_waitMask (a : Nat) (b : Byte) : (s.writeByte a b).waitMask = s.waitMask := rfl
@[simp] theorem State.writeByte_mem (a : Nat) (b : Byte) : (s.writeByte a b).mem = Memory.store s.mem a b := rfl
@[simp] theorem State.writeByte_started (a : Nat) (b : Byte) : (s.writeByte a b).started = s.started := rfl
@[simp] theorem State.writeByte_draws (a : Nat) (b : Byte) : (s.writeByte a b).draws = s.draws := rfl
@[simp] theorem State.writeByte_reg (a : Nat) (b : Byte) (r : RegIx) : (s.writeByte a b).reg r = s.reg r := rfl
@[simp] theorem State.writeByte_dataAddr (a : Nat) (b : Byte) : (s.writeByte a b).dataAddr = s.dataAddr := rfl

@[simp] theorem State.writeBytes_v (a : Nat) (bs : List Byte) : (s.writeBytes a bs).v = s.v := rfl
@[simp] theorem State.writeBytes_i (a : Nat) (bs : List Byte) : (s.writeBytes a bs).i = s.i := rfl
@[simp] theorem State.writeBytes_pc (a : Nat) (bs : List Byte) : (s.writeBytes a bs).pc = s.pc := rfl
@[simp] theorem State.writeBytes_stack (a : Nat) (bs : List Byte) : (s.writeBytes a bs).stack = s.stack := rfl
@[simp] theorem State.writeBytes_sp (a : Nat) (bs : List Byte) : (s.writeBytes a bs).sp = s.sp := rfl
@[simp] theorem State.writeBytes_dt (a : Nat) (bs : List Byte) : (s.writeBytes a bs).dt = s.dt := rfl
@[simp] theorem State.writeBytes_st (a : Nat) (bs : List Byte) : (s.writeBytes a bs).st = s.st := rfl
@[simp] theorem State.writeBytes_fb (a : Nat) (bs : List Byte) : (s.writeBytes a bs).fb = s.fb := rfl
@[simp] theorem State.writeBytes_drawFlag (a : Nat) (bs : List Byte) : (s.writeBytes a bs).drawFlag = s.drawFlag := rfl
@[simp] theorem State.writeBytes_keys (a : Nat) (bs : List Byte) : (s.writeBytes a bs).keys = s.keys := rfl
@[simp] theorem State.writeBytes_waiting (a : Nat) (bs : List Byte) : (s.writeBytes a bs).waiting = s.waiting := rfl
@[simp] theorem State.writeBytes_waitReg (a : Nat) (bs : List Byte) : (s.writeBytes a bs).waitReg = s.waitReg := rfl
@[simp] theorem State.writeBytes_waitMask (a : Nat) (bs : List Byte) : (s.writeBytes a bs).waitMask = s.waitMask := rfl
@[simp] theorem State.writeBytes_mem (a : Nat) (bs : List Byte) : (s.writeBytes a bs).mem = Memory.storeList s.mem a bs := rfl
@[simp] theorem State.writeBytes_started (a : Nat) (bs : List Byte) : (s.writeBytes a bs).started = s.started := rfl
@[simp] theorem State.writeBytes_draws (a : Nat) (bs : List Byte) : (s.writeBytes a bs).draws = s.draws := rfl
@[simp] theorem State.writeBytes_reg (a : Nat) (bs : List Byte) (r : RegIx) : (s.writeBytes a bs).reg r = s.reg r := rfl
@[simp] theorem State.writeBytes_dataAddr (a : Nat) (bs : List Byte) : (s.writeBytes a bs).dataAddr = s.dataAddr := rfl

@[simp] theorem State.setV_v (x : RegIx) (b : Byte) : (s.setV x b).v = s.v.set x.val b x.isLt := rfl
@[simp] theorem State.setV_i (x : RegIx) (b : Byte) : (s.setV x b).i = s.i := rfl
@[simp] theorem State.setV_pc (x : RegIx) (b : Byte) : (s.setV x b).pc = s.pc := rfl
@[simp] theorem State.setV_stack (x : RegIx) (b : Byte) : (s.setV x b).stack = s.stack := rfl
@[simp] theorem State.setV_sp (x : RegIx) (b : Byte) : (s.setV x b).sp = s.sp := rfl
@[simp] theorem State.setV_dt (x : RegIx) (b : Byte) : (s.setV x b).dt = s.dt := rfl
@[simp] theorem State.setV_st (x : RegIx) (b : Byte) : (s.setV x b).st = s.st := rfl
@[simp] theorem State.setV_fb (x : RegIx) (b : Byte) : (s.setV x b).fb = s.fb := rfl
@[simp] theorem State.setV_drawFlag (x : RegIx) (b : Byte) : (s.setV x b).drawFlag = s.drawFlag := rfl
@[simp] theorem State.setV_keys (x : RegIx) (b : Byte) : (s.setV x b).keys = s.keys := rfl
@[simp] theorem State.setV_waiting (x : RegIx) (b : Byte) : (s.setV x b).waiting = s.waiting := rfl
@[simp] theorem State.setV_waitReg (x : RegIx) (b : Byte) : (s.setV x b).waitReg = s.waitReg := rfl
@[simp] theorem State.setV_waitMask (x : RegIx) (b : Byte) : (s.setV x b).waitMask = s.waitMask := rfl
@[simp] theorem State.setV_mem (x : RegIx) (b : Byte) : (s.setV x b).mem = s.mem := rfl
@[simp] theorem State.setV_started (x : RegIx) (b : Byte) : (s.setV x b).started = s.started := rfl
@[simp] theorem State.setV_draws (x : RegIx) (b : Byte) : (s.setV x b).draws = s.draws := rfl
@[simp] theorem State.setV_readByte (x : RegIx) (b : Byte) (q : Nat) : (s.setV x b).readByte q = s.readByte q := rfl
@[simp] theorem State.setV_dataAddr (x : RegIx) (b : Byte) : (s.setV x b).dataAddr = s.dataAddr := rfl

@[simp] theorem State.setFlag_v (f : Bool) : (s.setFlag f).v = s.v.set 15 (flagByte f) := rfl
@[simp] theorem State.setFlag_i (f : Bool) : (s.setFlag f).i = s.i := rfl
@[simp] theorem State.setFlag_pc (f : Bool) : (s.setFlag f).pc = s.pc := rfl
@[simp] theorem State.setFlag_stack (f : Bool) : (s.setFlag f).stack = s.stack := rfl
@[simp] theorem State.setFlag_sp (f : Bool) : (s.setFlag f).sp = s.sp := rfl
@[simp] theorem State.setFlag_dt (f : Bool) : (s.setFlag f).dt = s.dt := rfl
@[simp] theorem State.setFlag_st (f : Bool) : (s.setFlag f).st = s.st := rfl
@[simp] theorem State.setFlag_fb (f : Bool) : (s.setFlag f).fb = s.fb := rfl
@[simp] theorem State.setFlag_drawFlag (f : Bool) : (s.setFlag f).drawFlag = s.drawFlag := rfl
@[simp] theorem State.setFlag_keys (f : Bool) : (s.setFlag f).keys = s.keys := rfl
@[simp] theorem State.setFlag_waiting (f : Bool) : (s.setFlag f).waiting = s.waiting := rfl
@[simp] theorem State.setFlag_waitReg (f : Bool) : (s.setFlag f).waitReg = s.waitReg := rfl
@[simp] theorem State.setFlag_waitMask (f : Bool) : (s.setFlag f).waitMask = s.waitMask := rfl
@[simp] theorem State.setFlag_mem (f : Bool) : (s.setFlag f).mem = s.mem := rfl
@[simp] theorem State.setFlag_started (f : Bool) : (s.setFlag f).started = s.started := rfl
@[simp] theorem State.setFlag_draws (f : Bool) : (s.setFlag f).draws = s.draws := rfl
@[simp] theorem State.setFlag_readByte (f : Bool) (q : Nat) : (s.setFlag f).readByte q = s.readByte q := rfl
@[simp] theorem State.setFlag_dataAddr (f : Bool) : (s.setFlag f).dataAddr = s.dataAddr := rfl

@[simp] theorem State.setResultAndFlag_v (x : RegIx) (r : Byte) (f : Bool) : (s.setResultAndFlag x r f).v = (s.v.set x.val r x.isLt).set 15 (flagByte f) := rfl
@[simp] theorem State.setResultAndFlag_i (x : RegIx) (r : Byte) (f : Bool) : (s.setResultAndFlag x r f).i = s.i := rfl
@[simp] theorem State.setResultAndFlag_pc (x : RegIx) (r : Byte) (f : Bool) : (s.setResultAndFlag x r f).pc = s.pc := rfl
@[simp] theorem State.setResultAndFlag_stack (x : RegIx) (r : Byte) (f : Bool) : (s.setResultAndFlag x r f).stack = s.stack := rfl
@[simp] theorem State.setResultAndFlag_sp (x : RegIx) (r : Byte) (f : Bool) : (s.setResultAndFlag x r f).sp = s.sp := rfl
@[simp] theorem State.setResultAndFlag_dt (x : RegIx) (r : Byte) (f : Bool) : (s.setResultAndFlag x r f).dt = s.dt := rfl
@[simp] theorem State.setResultAndFlag_st (x : RegIx) (r : Byte) (f : Bool) : (s.setResultAndFlag x r f).st = s.st := rfl
@[simp] theorem State.setResultAndFlag_fb (x : RegIx) (r : Byte) (f : Bool) : (s.setResultAndFlag x r f).fb = s.fb := rfl
@[simp] theorem State.setResultAndFlag_drawFlag (x : RegIx) (r : Byte) (f : Bool) : (s.setResultAndFlag x r f).drawFlag = s.drawFlag := rfl
@[simp] theorem State.setResultAndFlag_keys (x : RegIx) (r : Byte) (f : Bool) : (s.setResultAndFlag x r f).keys = s.keys := rfl
@[simp] theorem State.setResultAndFlag_waiting (x : RegIx) (r : Byte) (f : Bool) : (s.setResultAndFlag x r f).waiting = s.waiting := rfl
@[simp] theorem State.setResultAndFlag_waitReg (x : RegIx) (r : Byte) (f : Bool) : (s.setResultAndFlag x r f).waitReg = s.waitReg := rfl
@[simp] theorem State.setResultAndFlag_waitMask (x : RegIx) (r : Byte) (f : Bool) : (s.setResultAndFlag x r f).waitMask = s.waitMask := rfl
@[simp] theorem State.setResultAndFlag_mem (x : RegIx) (r : Byte) (f : Bool) : (s.setResultAndFlag x r f).mem = s.mem := rfl
@[simp] theorem State.setResultAndFlag_started (x : RegIx) (r : Byte) (f : Bool) : (s.setResultAndFlag x r f).started = s.started := rfl
@[simp] theorem State.setResultAndFlag_draws (x : RegIx) (r : Byte) (f : Bool) : (s.setResultAndFlag x r f).draws = s.draws := rfl
@[simp] theorem State.setResultAndFlag_readByte (x : RegIx) (r : Byte) (f : Bool) (q : Nat) : (s.setResultAndFlag x r f).readByte q = s.readByte q := rfl
@[simp] theorem State.setResultAndFlag_dataAddr (x : RegIx) (r : Byte) (f : Bool) : (s.setResultAndFlag x r f).dataAddr = s.dataAddr := rfl

@[simp] theorem State.setRegs_v (w : Vector Byte 16) : (s.setRegs w).v = w := rfl
@[simp] theorem State.setRegs_i (w : Vector Byte 16) : (s.setRegs w).i = s.i := rfl
@[simp] theorem State.setRegs_pc (w : Vector Byte 16) : (s.setRegs w).pc = s.pc := rfl
@[simp] theorem State.setRegs_stack (w : Vector Byte 16) : (s.setRegs w).stack = s.stack := rfl
@[simp] theorem State.setRegs_sp (w : Vector Byte 16) : (s.setRegs w).sp = s.sp := rfl
@[simp] theorem State.setRegs_dt (w : Vector Byte 16) : (s.setRegs w).dt = s.dt := rfl
@[simp] theorem State.setRegs_st (w : Vector Byte 16) : (s.setRegs w).st = s.st := rfl
@[simp] theorem State.setRegs_fb (w : Vector Byte 16) : (s.setRegs w).fb = s.fb := rfl
@[simp] theorem State.setRegs_drawFlag (w : Vector Byte 16) : (s.setRegs w).drawFlag = s.drawFlag := rfl
@[simp] theorem State.setRegs_keys (w : Vector Byte 16) : (s.setRegs w).keys = s.keys := rfl
@[simp] theorem State.setRegs_waiting (w : Vector Byte 16) : (s.setRegs w).waiting = s.waiting := rfl
@[simp] theorem State.setRegs_waitReg (w : Vector Byte 16) : (s.setRegs w).waitReg = s.waitReg := rfl
@[simp] theorem State.setRegs_waitMask (w : Vector Byte 16) : (s.setRegs w).waitMask = s.waitMask := rfl
@[simp] theorem State.setRegs_mem (w : Vector Byte 16) : (s.setRegs w).mem = s.mem := rfl
@[simp] theorem State.setRegs_started (w : Vector Byte 16) : (s.setRegs w).started = s.started := rfl
@[simp] theorem State.setRegs_draws (w : Vector Byte 16) : (s.setRegs w).draws = s.draws := rfl
@[simp] theorem State.setRegs_readByte (w : Vector Byte 16) (q : Nat) : (s.setRegs w).readByte q = s.readByte q := rfl
@[simp] theorem State.setRegs_dataAddr (w : Vector Byte 16) : (s.setRegs w).dataAddr = s.dataAddr := rfl

@[simp] theorem State.setI_v (w : Word) : (s.setI w).v = s.v := rfl
@[simp] theorem State.setI_i (w : Word) : (s.setI w).i = wrapAddr w := rfl
@[simp] theorem State.setI_pc (w : Word) : (s.setI w).pc = s.pc := rfl
@[simp] theorem State.setI_stack (w : Word) : (s.setI w).stack = s.stack := rfl
@[simp] theorem State.setI_sp (w : Word) : (s.setI w).sp = s.sp := rfl
@[simp] theorem State.setI_dt (w : Word) : (s.setI w).dt = s.dt := rfl
@[simp] theorem State.setI_st (w : Word) : (s.setI w).st = s.st := rfl
@[simp] theorem State.setI_fb (w : Word) : (s.setI w).fb = s.fb := rfl
@[simp] theorem State.setI_drawFlag (w : Word) : (s.setI w).drawFlag = s.drawFlag := rfl
@[simp] theorem State.setI_keys (w : Word) : (s.setI w).keys = s.keys := rfl
@[simp] theorem State.setI_waiting (w : Word) : (s.setI w).waiting = s.waiting := rfl
@[simp] theorem State.setI_waitReg (w : Word) : (s.setI w).waitReg = s.waitReg := rfl
@[simp] theorem State.setI_waitMask (w : Word) : (s.setI w).waitMask = s.waitMask := rfl
@[simp] theorem State.setI_mem (w : Word) : (s.setI w).mem = s.mem := rfl
@[simp] theorem State.setI_started (w : Word) : (s.setI w).started = s.started := rfl
@[simp] theorem State.setI_draws (w : Word) : (s.setI w).draws = s.draws := rfl
@[simp] theorem State.setI_reg (w : Word) (r : RegIx) : (s.setI w).reg r = s.reg r := rfl
@[simp] theorem State.setI_readByte (w : Word) (q : Nat) : (s.setI w).readByte q = s.readByte q := rfl

@[simp] theorem State.setPc_v (w : Word) : (s.setPc w).v = s.v := rfl
@[simp] theorem State.setPc_i (w : Word) : (s.setPc w).i = s.i := rfl
@[simp] theorem State.setPc_pc (w : Word) : (s.setPc w).pc = wrapAddr w := rfl
@[simp] theorem State.setPc_stack (w : Word) : (s.setPc w).stack = s.stack := rfl
@[simp] theorem State.setPc_sp (w : Word) : (s.setPc w).sp = s.sp := rfl
@[simp] theorem State.setPc_dt (w : Word) : (s.setPc w).dt = s.dt := rfl
@[simp] theorem State.setPc_st (w : Word) : (s.setPc w).st = s.st := rfl
@[simp] theorem State.setPc_fb (w : Word) : (s.setPc w).fb = s.fb := rfl
@[simp] theorem State.setPc_drawFlag (w : Word) : (s.setPc w).drawFlag = s.drawFlag := rfl
@[simp] theorem State.setPc_keys (w : Word) : (s.setPc w).keys = s.keys := rfl
@[simp] theorem State.setPc_waiting (w : Word) : (s.setPc w).waiting = s.waiting := rfl
@[simp] theorem State.setPc_waitReg (w : Word) : (s.setPc w).waitReg = s.waitReg := rfl
@[simp] theorem State.setPc_waitMask (w : Word) : (s.setPc w).waitMask = s.waitMask := rfl
@[simp] theorem State.setPc_mem (w : Word) : (s.setPc w).mem = s.mem := rfl
@[simp] theorem State.setPc_started (w : Word) : (s.setPc w).started = s.started := rfl
@[simp] theorem State.setPc_draws (w : Word) : (s.setPc w).draws = s.draws := rfl
@[simp] theorem State.setPc_reg (w : Word) (r : RegIx) : (s.setPc w).reg r = s.reg r := rfl
@[simp] theorem State.setPc_readByte (w : Word) (q : Nat) : (s.setPc w).readByte q = s.readByte q := rfl
@[simp] theorem State.setPc_dataAddr (w : Word) : (s.setPc w).dataAddr = s.dataAddr := rfl

@[simp] theorem State.advance_v : s.advance.v = s.v := rfl
@[simp] theorem State.advance_i : s.advance.i = s.i := rfl
@[simp] theorem State.advance_pc : s.advance.pc = wrapAddr (s.pc + 2) := rfl
@[simp] theorem State.advance_stack : s.advance.stack = s.stack := rfl
@[simp] theorem State.advance_sp : s.advance.sp = s.sp := rfl
@[simp] theorem State.advance_dt : s.advance.dt = s.dt := rfl
@[simp] theorem State.advance_st : s.advance.st = s.st := rfl
@[simp] theorem State.advance_fb : s.advance.fb = s.fb := rfl
@[simp] theorem State.advance_drawFlag : s.advance.drawFlag = s.drawFlag := rfl
@[simp] theorem State.advance_keys : s.advance.keys = s.keys := rfl
@[simp] theorem State.advance_waiting : s.advance.waiting = s.waiting := rfl
@[simp] theorem State.advance_waitReg : s.advance.waitReg = s.waitReg := rfl
@[simp] theorem State.advance_waitMask : s.advance.waitMask = s.waitMask := rfl
@[simp] theorem State.advance_mem : s.advance.mem = s.mem := rfl
@[simp] theorem State.advance_started : s.advance.started = s.started := rfl
@[simp] theorem State.advance_draws : s.advance.draws = s.draws := rfl
@[simp] theorem State.advance_reg (r : RegIx) : s.advance.reg r = s.reg r := rfl
@[simp] theorem State.advance_readByte (q : Nat) : s.advance.readByte q = s.readByte q := rfl
@[simp] theorem State.advance_dataAddr : s.advance.dataAddr = s.dataAddr := rfl

@[simp] theorem State.skipIf_v (c : Bool) : (s.skipIf c).v = s.v := rfl
@[simp] theorem State.skipIf_i (c : Bool) : (s.skipIf c).i = s.i := rfl
@[simp] theorem State.skipIf_pc (c : Bool) : (s.skipIf c).pc = wrapAddr (if c then s.pc + 4 else s.pc + 2) := rfl
@[simp] theorem State.skipIf_stack (c : Bool) : (s.skipIf c).stack = s.stack := rfl
@[simp] theorem State.skipIf_sp (c : Bool) : (s.skipIf c).sp = s.sp := rfl
@[simp] theorem State.skipIf_dt (c : Bool) : (s.skipIf c).dt = s.dt := rfl
@[simp] theorem State.skipIf_st (c : Bool) : (s.skipIf c).st = s.st := rfl
@[simp] theorem State.skipIf_fb (c : Bool) : (s.skipIf c).fb = s.fb := rfl
@[simp] theorem State.skipIf_drawFlag (c : Bool) : (s.skipIf c).drawFlag = s.drawFlag := rfl
@[simp] theorem State.skipIf_keys (c : Bool) : (s.skipIf c).keys = s.keys := rfl
@[simp] theorem State.skipIf_waiting (c : Bool) : (s.skipIf c).waiting = s.waiting := rfl
@[simp] theorem State.skipIf_waitReg (c : Bool) : (s.skipIf c).waitReg = s.waitReg := rfl
@[simp] theorem State.skipIf_waitMask (c : Bool) : (s.skipIf c).waitMask = s.waitMask := rfl
@[simp] theorem State.skipIf_mem (c : Bool) : (s.skipIf c).mem = s.mem := rfl
@[simp] theorem State.skipIf_started (c : Bool) : (s.skipIf c).started = s.started := rfl
@[simp] theorem State.skipIf_draws (c : Bool) : (s.skipIf c).draws = s.draws := rfl
@[simp] theorem State.skipIf_reg (c : Bool) (r : RegIx) : (s.skipIf c).reg r = s.reg r := rfl
@[simp] theorem State.skipIf_readByte (c : Bool) (q : Nat) : (s.skipIf c).readByte q = s.readByte q := rfl
@[simp] theorem State.skipIf_dataAddr (c : Bool) : (s.skipIf c).dataAddr = s.dataAddr := rfl

@[simp] theorem State.setDt_v (b : Byte) : (s.setDt b).v = s.v := rfl
@[simp] theorem State.setDt_i (b : Byte) : (s.setDt b).i = s.i := rfl
@[simp] theorem State.setDt_pc (b : Byte) : (s.setDt b).pc = s.pc := rfl
@[simp] theorem State.setDt_stack (b : Byte) : (s.setDt b).stack = s.stack := rfl
@[simp] theorem State.setDt_sp (b : Byte) : (s.setDt b).sp = s.sp := rfl
@[simp] theorem State.setDt_dt (b : Byte) : (s.setDt b).dt = b := rfl
@[simp] theorem State.setDt_st (b : Byte) : (s.setDt b).st = s.st := rfl
@[simp] theorem State.setDt_fb (b : Byte) : (s.setDt b).fb = s.fb := rfl
@[simp] theorem State.setDt_drawFlag (b : Byte) : (s.setDt b).drawFlag = s.drawFlag := rfl
@[simp] theorem State.setDt_keys (b : Byte) : (s.setDt b).keys = s.keys := rfl
@[simp] theorem State.setDt_waiting (b : Byte) : (s.setDt b).waiting = s.waiting := rfl
@[simp] theorem State.setDt_waitReg (b : Byte) : (s.setDt b).waitReg = s.waitReg := rfl
@[simp] theorem State.setDt_waitMask (b : Byte) : (s.setDt b).waitMask = s.waitMask := rfl
@[simp] theorem State.setDt_mem (b : Byte) : (s.setDt b).mem = s.mem := rfl
@[simp] theorem State.setDt_started (b : Byte) : (s.setDt b).started = s.started := rfl
@[simp] theorem State.setDt_draws (b : Byte) : (s.setDt b).draws = s.draws := rfl
@[simp] theorem State.setDt_reg (b : Byte) (r : RegIx) : (s.setDt b).reg r = s.reg r := rfl
@[simp] theorem State.setDt_readByte (b : Byte) (q : Nat) : (s.setDt b).readByte q = s.readByte q := rfl
@[simp] theorem State.setDt_dataAddr (b : Byte) : (s.setDt b).dataAddr = s.dataAddr := rfl

@[simp] theorem State.setSt_v (b : Byte) : (s.setSt b).v = s.v := rfl
@[simp] theorem State.setSt_i (b : Byte) : (s.setSt b).i = s.i := rfl
@[simp] theorem State.setSt_pc (b : Byte) : (s.setSt b).pc = s.pc := rfl
@[simp] theorem State.setSt_stack (b : Byte) : (s.setSt b).stack = s.stack := rfl
@[simp] theorem State.setSt_sp (b : Byte) : (s.setSt b).sp = s.sp := rfl
@[simp] theorem State.setSt_dt (b : Byte) : (s.setSt b).dt = s.dt := rfl
@[simp] theorem State.setSt_st (b : Byte) : (s.setSt b).st = b := rfl
@[simp] theorem State.setSt_fb (b : Byte) : (s.setSt b).fb = s.fb := rfl
@[simp] theorem State.setSt_drawFlag (b : Byte) : (s.setSt b).drawFlag = s.drawFlag := rfl
@[simp] theorem State.setSt_keys (b : Byte) : (s.setSt b).keys = s.keys := rfl
@[simp] theorem State.setSt_waiting (b : Byte) : (s.setSt b).waiting = s.waiting := rfl
@[simp] theorem State.setSt_waitReg (b : Byte) : (s.setSt b).waitReg = s.waitReg := rfl
@[simp] theorem State.setSt_waitMask (b : Byte) : (s.setSt b).waitMask = s.waitMask := rfl
@[simp] theorem State.setSt_mem (b : Byte) : (s.setSt b).mem = s.mem := rfl
@[simp] theorem State.setSt_started (b : Byte) : (s.setSt b).started = s.started := rfl
@[simp] theorem State.setSt_draws (b : Byte) : (s.setSt b).draws = s.draws := rfl
@[simp] theorem State.setSt_reg (b : Byte) (r : RegIx) : (s.setSt b).reg r = s.reg r := rfl
@[simp] theorem State.setSt_readByte (b : Byte) (q : Nat) : (s.setSt b).readByte q = s.readByte q := rfl
@[simp] theorem State.setSt_dataAddr (b : Byte) : (s.setSt b).dataAddr = s.dataAddr := rfl

@[simp] theorem State.setStack_v (k : Vector Word 16) (p : Fin 17) : (s.setStack k p).v = s.v := rfl
@[simp] theorem State.setStack_i (k : Vector Word 16) (p : Fin 17) : (s.setStack k p).i = s.i := rfl
@[simp] theorem State.setStack_pc (k : Vector Word 16) (p : Fin 17) : (s.setStack k p).pc = s.pc := rfl
@[simp] theorem State.setStack_stack (k : Vector Word 16) (p : Fin 17) : (s.setStack k p).stack = k := rfl
@[simp] theorem State.setStack_sp (k : Vector Word 16) (p : Fin 17) : (s.setStack k p).sp = p := rfl
@[simp] theorem State.setStack_dt (k : Vector Word 16) (p : Fin 17) : (s.setStack k p).dt = s.dt := rfl
@[simp] theorem State.setStack_st (k : Vector Word 16) (p : Fin 17) : (s.setStack k p).st = s.st := rfl
@[simp] theorem State.setStack_fb (k : Vector Word 16) (p : Fin 17) : (s.setStack k p).fb = s.fb := rfl
@[simp] theorem State.setStack_drawFlag (k : Vector Word 16) (p : Fin 17) : (s.setStack k p).drawFlag = s.drawFlag := rfl
@[simp] theorem State.setStack_keys (k : Vector Word 16) (p : Fin 17) : (s.setStack k p).keys = s.keys := rfl
@[simp] theorem State.setStack_waiting (k : Vector Word 16) (p : Fin 17) : (s.setStack k p).waiting = s.waiting := rfl
@[simp] theorem State.setStack_waitReg (k : Vector Word 16) (p : Fin 17) : (s.setStack k p).waitReg = s.waitReg := rfl
@[simp] theorem State.setStack_waitMask (k : Vector Word 16) (p : Fin 17) : (s.setStack k p).waitMask = s.waitMask := rfl
@[simp] theorem State.setStack_mem (k : Vector Word 16) (p : Fin 17) : (s.setStack k p).mem = s.mem := rfl
@[simp] theorem State.setStack_started (k : Vector Word 16) (p : Fin 17) : (s.setStack k p).started = s.started := rfl
@[simp] theorem State.setStack_draws (k : Vector Word 16) (p : Fin 17) : (s.setStack k p).draws = s.draws := rfl
@[simp] theorem State.setStack_reg (k : Vector Word 16) (p : Fin 17) (r : RegIx) : (s.setStack k p).reg r = s.reg r := rfl
@[simp] theorem State.setStack_readByte (k : Vector Word 16) (p : Fin 17) (q : Nat) : (s.setStack k p).readByte q = s.readByte q := rfl
@[simp] theorem State.setStack_dataAddr (k : Vector Word 16) (p : Fin 17) : (s.setStack k p).dataAddr = s.dataAddr := rfl

@[simp] theorem State.setDisplay_v (f : Frame) : (s.setDisplay f).v = s.v := rfl
@[simp] theorem State.setDisplay_i (f : Frame) : (s.setDisplay f).i = s.i := rfl
@[simp] theorem State.setDisplay_pc (f : Frame) : (s.setDisplay f).pc = s.pc := rfl
@[simp] theorem State.setDisplay_stack (f : Frame) : (s.setDisplay f).stack = s.stack := rfl
@[simp] theorem State.setDisplay_sp (f : Frame) : (s.setDisplay f).sp = s.sp := rfl
@[simp] theorem State.setDisplay_dt (f : Frame) : (s.setDisplay f).dt = s.dt := rfl
@[simp] theorem State.setDisplay_st (f : Frame) : (s.setDisplay f).st = s.st := rfl
@[simp] theorem State.setDisplay_fb (f : Frame) : (s.setDisplay f).fb = f := rfl
@[simp] theorem State.setDisplay_drawFlag (f : Frame) : (s.setDisplay f).drawFlag = true := rfl
@[simp] theorem State.setDisplay_keys (f : Frame) : (s.setDisplay f).keys = s.keys := rfl
@[simp] theorem State.setDisplay_waiting (f : Frame) : (s.setDisplay f).waiting = s.waiting := rfl
@[simp] theorem State.setDisplay_waitReg (f : Frame) : (s.setDisplay f).waitReg = s.waitReg := rfl
@[simp] theorem State.setDisplay_waitMask (f : Frame) : (s.setDisplay f).waitMask = s.waitMask := rfl
@[simp] theorem State.setDisplay_mem (f : Frame) : (s.setDisplay f).mem = s.mem := rfl
@[simp] theorem State.setDisplay_started (f : Frame) : (s.setDisplay f).started = s.started := rfl
@[simp] theorem State.setDisplay_draws (f : Frame) : (s.setDisplay f).draws = s.draws := rfl
@[simp] theorem State.setDisplay_reg (f : Frame) (r : RegIx) : (s.setDisplay f).reg r = s.reg r := rfl
@[simp] theorem State.setDisplay_readByte (f : Frame) (q : Nat) : (s.setDisplay f).readByte q = s.readByte q := rfl
@[simp] theorem State.setDisplay_dataAddr (f : Frame) : (s.setDisplay f).dataAddr = s.dataAddr := rfl

@[simp] theorem State.clearDrawFlag_v : s.clearDrawFlag.v = s.v := rfl
@[simp] theorem State.clearDrawFlag_i : s.clearDrawFlag.i = s.i := rfl
@[simp] theorem State.clearDrawFlag_pc : s.clearDrawFlag.pc = s.pc := rfl
@[simp] theorem State.clearDrawFlag_stack : s.clearDrawFlag.stack = s.stack := rfl
@[simp] theorem State.clearDrawFlag_sp : s.clearDrawFlag.sp = s.sp := rfl
@[simp] theorem State.clearDrawFlag_dt : s.clearDrawFlag.dt = s.dt := rfl
@[simp] theorem State.clearDrawFlag_st : s.clearDrawFlag.st = s.st := rfl
@[simp] theorem State.clearDrawFlag_fb : s.clearDrawFlag.fb = s.fb := rfl
@[simp] theorem State.clearDrawFlag_drawFlag : s.clearDrawFlag.drawFlag = false := rfl
@[simp] theorem State.clearDrawFlag_keys : s.clearDrawFlag.keys = s.keys := rfl
@[simp] theorem State.clearDrawFlag_waiting : s.clearDrawFlag.waiting = s.waiting := rfl
@[simp] theorem State.clearDrawFlag_waitReg : s.clearDrawFlag.waitReg = s.waitReg := rfl
@[simp] theorem State.clearDrawFlag_waitMask : s.clearDrawFlag.waitMask = s.waitMask := rfl
@[simp] theorem State.clearDrawFlag_mem : s.clearDrawFlag.mem = s.mem := rfl
@[simp] theorem State.clearDrawFlag_started : s.clearDrawFlag.started = s.started := rfl
@[simp] theorem State.clearDrawFlag_draws : s.clearDrawFlag.draws = s.draws := rfl
@[simp] theorem State.clearDrawFlag_reg (r : RegIx) : s.clearDrawFlag.reg r = s.reg r := rfl
@[simp] theorem State.clearDrawFlag_readByte (q : Nat) : s.clearDrawFlag.readByte q = s.readByte q := rfl
@[simp] theorem State.clearDrawFlag_dataAddr : s.clearDrawFlag.dataAddr = s.dataAddr := rfl

@[simp] theorem State.setKeys_v (k m : BitVec 16) : (s.setKeys k m).v = s.v := rfl
@[simp] theorem State.setKeys_i (k m : BitVec 16) : (s.setKeys k m).i = s.i := rfl
@[simp] theorem State.setKeys_pc (k m : BitVec 16) : (s.setKeys k m).pc = s.pc := rfl
@[simp] theorem State.setKeys_stack (k m : BitVec 16) : (s.setKeys k m).stack = s.stack := rfl
@[simp] theorem State.setKeys_sp (k m : BitVec 16) : (s.setKeys k m).sp = s.sp := rfl
@[simp] theorem State.setKeys_dt (k m : BitVec 16) : (s.setKeys k m).dt = s.dt := rfl
@[simp] theorem State.setKeys_st (k m : BitVec 16) : (s.setKeys k m).st = s.st := rfl
@[simp] theorem State.setKeys_fb (k m : BitVec 16) : (s.setKeys k m).fb = s.fb := rfl
@[simp] theorem State.setKeys_drawFlag (k m : BitVec 16) : (s.setKeys k m).drawFlag = s.drawFlag := rfl
@[simp] theorem State.setKeys_keys (k m : BitVec 16) : (s.setKeys k m).keys = k := rfl
@[simp] theorem State.setKeys_waiting (k m : BitVec 16) : (s.setKeys k m).waiting = s.waiting := rfl
@[simp] theorem State.setKeys_waitReg (k m : BitVec 16) : (s.setKeys k m).waitReg = s.waitReg := rfl
@[simp] theorem State.setKeys_waitMask (k m : BitVec 16) : (s.setKeys k m).waitMask = m := rfl
@[simp] theorem State.setKeys_mem (k m : BitVec 16) : (s.setKeys k m).mem = s.mem := rfl
@[simp] theorem State.setKeys_started (k m : BitVec 16) : (s.setKeys k m).started = s.started := rfl
@[simp] theorem State.setKeys_draws (k m : BitVec 16) : (s.setKeys k m).draws = s.draws := rfl
@[simp] theorem State.setKeys_reg (k m : BitVec 16) (r : RegIx) : (s.setKeys k m).reg r = s.reg r := rfl
@[simp] theorem State.setKeys_readByte (k m : BitVec 16) (q : Nat) : (s.setKeys k m).readByte q = s.readByte q := rfl
@[simp] theorem State.setKeys_dataAddr (k m : BitVec 16) : (s.setKeys k m).dataAddr = s.dataAddr := rfl

@[simp] theorem State.enterWait_v (x : RegIx) : (s.enterWait x).v = s.v := rfl
@[simp] theorem State.enterWait_i (x : RegIx) : (s.enterWait x).i = s.i := rfl
@[simp] theorem State.enterWait_pc (x : RegIx) : (s.enterWait x).pc = s.pc := rfl
@[simp] theorem State.enterWait_stack (x : RegIx) : (s.enterWait x).stack = s.stack := rfl
@[simp] theorem State.enterWait_sp (x : RegIx) : (s.enterWait x).sp = s.sp := rfl
@[simp] theorem State.enterWait_dt (x : RegIx) : (s.enterWait x).dt = s.dt := rfl
@[simp] theorem State.enterWait_st (x : RegIx) : (s.enterWait x).st = s.st := rfl
@[simp] theorem State.enterWait_fb (x : RegIx) : (s.enterWait x).fb = s.fb := rfl
@[simp] theorem State.enterWait_drawFlag (x : RegIx) : (s.enterWait x).drawFlag = s.drawFlag := rfl
@[simp] theorem State.enterWait_keys (x : RegIx) : (s.enterWait x).keys = s.keys := rfl
@[simp] theorem State.enterWait_waiting (x : RegIx) : (s.enterWait x).waiting = true := rfl
@[simp] theorem State.enterWait_waitReg (x : RegIx) : (s.enterWait x).waitReg = x := rfl
@[simp] theorem State.enterWait_waitMask (x : RegIx) : (s.enterWait x).waitMask = s.keys := rfl
@[simp] theorem State.enterWait_mem (x : RegIx) : (s.enterWait x).mem = s.mem := rfl
@[simp] theorem State.enterWait_started (x : RegIx) : (s.enterWait x).started = s.started := rfl
@[simp] theorem State.enterWait_draws (x : RegIx) : (s.enterWait x).draws = s.draws := rfl
@[simp] theorem State.enterWait_reg (x : RegIx) (r : RegIx) : (s.enterWait x).reg r = s.reg r := rfl
@[simp] theorem State.enterWait_readByte (x : RegIx) (q : Nat) : (s.enterWait x).readByte q = s.readByte q := rfl
@[simp] theorem State.enterWait_dataAddr (x : RegIx) : (s.enterWait x).dataAddr = s.dataAddr := rfl

@[simp] theorem State.leaveWait_v : s.leaveWait.v = s.v := rfl
@[simp] theorem State.leaveWait_i : s.leaveWait.i = s.i := rfl
@[simp] theorem State.leaveWait_pc : s.leaveWait.pc = s.pc := rfl
@[simp] theorem State.leaveWait_stack : s.leaveWait.stack = s.stack := rfl
@[simp] theorem State.leaveWait_sp : s.leaveWait.sp = s.sp := rfl
@[simp] theorem State.leaveWait_dt : s.leaveWait.dt = s.dt := rfl
@[simp] theorem State.leaveWait_st : s.leaveWait.st = s.st := rfl
@[simp] theorem State.leaveWait_fb : s.leaveWait.fb = s.fb := rfl
@[simp] theorem State.leaveWait_drawFlag : s.leaveWait.drawFlag = s.drawFlag := rfl
@[simp] theorem State.leaveWait_keys : s.leaveWait.keys = s.keys := rfl
@[simp] theorem State.leaveWait_waiting : s.leaveWait.waiting = false := rfl
@[simp] theorem State.leaveWait_waitReg : s.leaveWait.waitReg = s.waitReg := rfl
@[simp] theorem State.leaveWait_waitMask : s.leaveWait.waitMask = s.waitMask := rfl
@[simp] theorem State.leaveWait_mem : s.leaveWait.mem = s.mem := rfl
@[simp] theorem State.leaveWait_started : s.leaveWait.started = s.started := rfl
@[simp] theorem State.leaveWait_draws : s.leaveWait.draws = s.draws := rfl
@[simp] theorem State.leaveWait_reg (r : RegIx) : s.leaveWait.reg r = s.reg r := rfl
@[simp] theorem State.leaveWait_readByte (q : Nat) : s.leaveWait.readByte q = s.readByte q := rfl
@[simp] theorem State.leaveWait_dataAddr : s.leaveWait.dataAddr = s.dataAddr := rfl

@[simp] theorem State.countDraw_v : s.countDraw.v = s.v := rfl
@[simp] theorem State.countDraw_i : s.countDraw.i = s.i := rfl
@[simp] theorem State.countDraw_pc : s.countDraw.pc = s.pc := rfl
@[simp] theorem State.countDraw_stack : s.countDraw.stack = s.stack := rfl
@[simp] theorem State.countDraw_sp : s.countDraw.sp = s.sp := rfl
@[simp] theorem State.countDraw_dt : s.countDraw.dt = s.dt := rfl
@[simp] theorem State.countDraw_st : s.countDraw.st = s.st := rfl
@[simp] theorem State.countDraw_fb : s.countDraw.fb = s.fb := rfl
@[simp] theorem State.countDraw_drawFlag : s.countDraw.drawFlag = s.drawFlag := rfl
@[simp] theorem State.countDraw_keys : s.countDraw.keys = s.keys := rfl
@[simp] theorem State.countDraw_waiting : s.countDraw.waiting = s.waiting := rfl
@[simp] theorem State.countDraw_waitReg : s.countDraw.waitReg = s.waitReg := rfl
@[simp] theorem State.countDraw_waitMask : s.countDraw.waitMask = s.waitMask := rfl
@[simp] theorem State.countDraw_mem : s.countDraw.mem = s.mem := rfl
@[simp] theorem State.countDraw_started : s.countDraw.started = s.started := rfl
@[simp] theorem State.countDraw_draws : s.countDraw.draws = s.draws + 1 := rfl
@[simp] theorem State.countDraw_reg (r : RegIx) : s.countDraw.reg r = s.reg r := rfl
@[simp] theorem State.countDraw_readByte (q : Nat) : s.countDraw.readByte q = s.readByte q := rfl
@[simp] theorem State.countDraw_dataAddr : s.countDraw.dataAddr = s.dataAddr := rfl

@[simp] theorem State.markStarted_v : s.markStarted.v = s.v := rfl
@[simp] theorem State.markStarted_i : s.markStarted.i = s.i := rfl
@[simp] theorem State.markStarted_pc : s.markStarted.pc = s.pc := rfl
@[simp] theorem State.markStarted_stack : s.markStarted.stack = s.stack := rfl
@[simp] theorem State.markStarted_sp : s.markStarted.sp = s.sp := rfl
@[simp] theorem State.markStarted_dt : s.markStarted.dt = s.dt := rfl
@[simp] theorem State.markStarted_st : s.markStarted.st = s.st := rfl
@[simp] theorem State.markStarted_fb : s.markStarted.fb = s.fb := rfl
@[simp] theorem State.markStarted_drawFlag : s.markStarted.drawFlag = s.drawFlag := rfl
@[simp] theorem State.markStarted_keys : s.markStarted.keys = s.keys := rfl
@[simp] theorem State.markStarted_waiting : s.markStarted.waiting = s.waiting := rfl
@[simp] theorem State.markStarted_waitReg : s.markStarted.waitReg = s.waitReg := rfl
@[simp] theorem State.markStarted_waitMask : s.markStarted.waitMask = s.waitMask := rfl
@[simp] theorem State.markStarted_mem : s.markStarted.mem = s.mem := rfl
@[simp] theorem State.markStarted_started : s.markStarted.started = true := rfl
@[simp] theorem State.markStarted_draws : s.markStarted.draws = s.draws := rfl
@[simp] theorem State.markStarted_reg (r : RegIx) : s.markStarted.reg r = s.reg r := rfl
@[simp] theorem State.markStarted_readByte (q : Nat) : s.markStarted.readByte q = s.readByte q := rfl
@[simp] theorem State.markStarted_dataAddr : s.markStarted.dataAddr = s.dataAddr := rfl

end Sys2Proof.Machine
end

