-- ==== Sys2Proof/Laws/Ops.lean ====
section
/-! SUPPORT. What the shared operations over registers, PC and the call stack do, said once each. -/

namespace Sys2Proof.Machine

/-! ### Reduced addresses -/

@[simp] theorem wrapAddr_toNat (w : Word) : (wrapAddr w).toNat = w.toNat % 4096 := by
  simp [wrapAddr, BitVec.toNat_umod]

theorem wrapAddr_lt (w : Word) : (wrapAddr w).toNat < 4096 := by
  rw [wrapAddr_toNat]; exact Nat.mod_lt _ (by decide)

theorem wrapAddr_of_lt {w : Word} (h : w.toNat < 4096) : wrapAddr w = w :=
  BitVec.eq_of_toNat_eq (by rw [wrapAddr_toNat, Nat.mod_eq_of_lt h])

theorem immAddr_lt (nnn : Addr) : (immAddr nnn).toNat < 4096 := by
  have : nnn.toNat < 4096 := nnn.isLt
  simp [immAddr]; omega

@[simp] theorem wrapAddr_immAddr (nnn : Addr) : wrapAddr (immAddr nnn) = immAddr nnn := wrapAddr_of_lt (immAddr_lt nnn)

theorem glyphAddr_toNat (d : Byte) : (glyphAddr d).toNat = 0x050 + 5 * d.toNat := by
  have : d.toNat < 256 := d.isLt
  simp [glyphAddr, BitVec.toNat_add, BitVec.toNat_mul]; omega

@[simp] theorem wrapAddr_glyphAddr (d : Byte) : wrapAddr (glyphAddr d) = glyphAddr d :=
  wrapAddr_of_lt (by have : d.toNat < 256 := d.isLt; rw [glyphAddr_toNat]; omega)

/-! ### Registers -/

@[simp] theorem State.reg_setV_same (s : State) (x : RegIx) (b : Byte) : (s.setV x b).reg x = b := by
  simp [State.reg]

theorem State.reg_setV_ne (s : State) {x r : RegIx} (b : Byte) (h : r ≠ x) : (s.setV x b).reg r = s.reg r := by
  have : x.val ≠ r.val := fun e => h (Fin.ext e.symm)
  simp [State.reg, this]

@[simp] theorem State.reg_setFlag (s : State) (f : Bool) : (s.setFlag f).reg 15 = flagByte f := State.reg_setV_same s 15 _

/-- The result and the flag (R123): VF holds the flag even when it is the result's register. -/
@[simp] theorem State.reg_setResultAndFlag_flag (s : State) (x : RegIx) (r : Byte) (f : Bool) :
    (s.setResultAndFlag x r f).reg 15 = flagByte f := State.reg_setFlag _ f

theorem State.reg_setResultAndFlag_result (s : State) {x : RegIx} (r : Byte) (f : Bool) (h : x ≠ 15) :
    (s.setResultAndFlag x r f).reg x = r := by
  rw [State.setResultAndFlag, State.setFlag, State.reg_setV_ne _ _ h, State.reg_setV_same]

theorem State.reg_setResultAndFlag_other (s : State) {x q : RegIx} (r : Byte) (f : Bool) (h : q ≠ x) (h15 : q ≠ 15) :
    (s.setResultAndFlag x r f).reg q = s.reg q := by
  rw [State.setResultAndFlag, State.setFlag, State.reg_setV_ne _ _ h15, State.reg_setV_ne _ _ h]

/-- The registers after `FX65` (R145). -/
theorem State.reg_setRegs_loadedRegs (s : State) (base : Nat) (x r : RegIx) :
    (s.setRegs (s.loadedRegs base x)).reg r = if r ≤ x then s.readByte (base + r.val) else s.reg r := by
  simp [State.reg, State.loadedRegs]

theorem flagByte_cases (b : Bool) : flagByte b = 0 ∨ flagByte b = 1 := by cases b <;> simp [flagByte]

theorem State.regsUpTo_length (s : State) (x : RegIx) : (s.regsUpTo x).length = x.val + 1 := by
  have := x.isLt
  simp [State.regsUpTo]

theorem bcdDigits_length (b : Byte) : (bcdDigits b).length = 3 := rfl

/-! ### The I increment (R146) -/

theorem State.advanceI_true (s : State) (x : RegIx) :
    s.advanceI true x = s.setI (s.i + BitVec.ofNat 16 (x.val + 1)) := rfl

theorem State.advanceI_false (s : State) (x : RegIx) : s.advanceI false x = s := rfl

/-- Whatever the parameter, the increment touches I alone. -/
theorem State.advanceI_only_i (s : State) (q : Bool) (x : RegIx) : s.advanceI q x = { s with i := (s.advanceI q x).i } := by
  cases q <;> rfl

/-! ### The call stack (R24, R25) -/

/-- What a push can do: it stores at SP and increments it, and it is refused exactly when SP = 16. -/
theorem State.push_cases (s : State) (a : Word) :
    (∃ h : s.sp.val < 16, s.push a = some (s.setStack (s.stack.set s.sp.val a h) ⟨s.sp.val + 1, by omega⟩)) ∨
      (s.sp = 16 ∧ s.push a = none) := by
  by_cases h : s.sp.val < 16
  · exact .inl ⟨h, by simp [State.push, h]⟩
  · have : s.sp.val < 17 := s.sp.isLt
    exact .inr ⟨Fin.ext (by show s.sp.val = 16; omega), by simp [State.push, h]⟩

/-- What a pop can do: it decrements SP and gives the entry there, the stack as before, and it is refused exactly when
SP = 0. -/
theorem State.pop_cases (s : State) :
    (∃ h : 0 < s.sp.val, s.pop =
        some (s.stack[s.sp.val - 1]'(by omega), s.setStack s.stack ⟨s.sp.val - 1, by omega⟩)) ∨
      (s.sp = 0 ∧ s.pop = none) := by
  by_cases h : 0 < s.sp.val
  · exact .inl ⟨h, by simp [State.pop, h]⟩
  · exact .inr ⟨Fin.ext (by show s.sp.val = 0; omega), by simp [State.pop, h]⟩

end Sys2Proof.Machine
end

