-- ==== Sys2Proof/Laws/Exec.lean ====
section
/-! SUPPORT. What exec and step can do, said once: every instruction but CALL and RET always completes, those two fail
exactly when the stack is full or empty (spec/40_cycle.md R96), and a step is one of three things (R90). -/

namespace Sys2Proof.Machine

/-- What a return can do (R100). -/
theorem exec_ret_cases (s : State) :
    (∃ h : 0 < s.sp.val, exec .ret s = .next ((s.setStack s.stack ⟨s.sp.val - 1, by omega⟩).setPc
        (s.stack[s.sp.val - 1]'(by omega)))) ∨
      (s.sp = 0 ∧ exec .ret s = .fault (.stackUnderflow s.pc (encode .ret))) := by
  rcases s.pop_cases with ⟨h, e⟩ | ⟨h, e⟩
  · exact .inl ⟨h, by simp only [exec, execRet, e]⟩
  · exact .inr ⟨h, by simp only [exec, execRet, e, raise]⟩

/-- What a call can do (R102). -/
theorem exec_call_cases (nnn : Addr) (s : State) :
    (∃ h : s.sp.val < 16, exec (.call nnn) s = .next ((s.setStack (s.stack.set s.sp.val s.returnAddr h)
        ⟨s.sp.val + 1, by omega⟩).setPc (immAddr nnn))) ∨
      (s.sp = 16 ∧ exec (.call nnn) s = .fault (.stackOverflow s.pc (encode (.call nnn)))) := by
  rcases s.push_cases s.returnAddr with ⟨h, e⟩ | ⟨h, e⟩
  · exact .inl ⟨h, by simp only [exec, execCall, e]⟩
  · exact .inr ⟨h, by simp only [exec, execCall, e, raise]⟩

/-- Setting the bookkeeping bit does not change the word at PC. -/
theorem State.markStarted_fetchWord (s : State) : s.markStarted.fetchWord = s.fetchWord := rfl

/-- What a step can do (R90): the key-wait check, an error of decoding, or the decoded instruction. -/
theorem step_cases (s : State) :
    (s.waiting = true ∧ step s = .next (keyWaitCheck s.markStarted)) ∨
      (s.waiting = false ∧ ∃ r, decode s.fetchWord = .error r ∧ step s = .fault (.unknownOpcode s.pc s.fetchWord)) ∨
      (s.waiting = false ∧ ∃ i, decode s.fetchWord = .ok i ∧ step s = exec i s.markStarted) := by
  unfold step
  cases hw : s.waiting with
  | true => simp [hw]
  | false =>
    cases hd : decode s.fetchWord with
    | error r => exact .inr (.inl ⟨rfl, r, rfl, by simp [hw, hd, State.markStarted_fetchWord, raise]⟩)
    | ok i => exact .inr (.inr ⟨rfl, i, rfl, by simp [hw, hd, State.markStarted_fetchWord]⟩)

/-- What the key-wait check can do (R190). -/
theorem keyWaitCheck_cases (s : State) :
    (lowestSet s.freshKeys = none ∧ keyWaitCheck s = s) ∨
      ∃ k, lowestSet s.freshKeys = some k ∧
        keyWaitCheck s = ((s.setV s.waitReg (BitVec.ofNat 8 k.val)).leaveWait).advance := by
  unfold keyWaitCheck
  cases h : lowestSet s.freshKeys with
  | none => exact .inl ⟨rfl, rfl⟩
  | some k => exact .inr ⟨k, rfl, rfl⟩

/-- No key is found exactly when no bit is set. -/
theorem lowestSet_none (w : BitVec 16) : lowestSet w = none ↔ ∀ k : RegIx, w.getLsbD k.val = false := by
  simp [lowestSet, List.find?_eq_none]

/-- The key found is set, and no lower one is. -/
theorem lowestSet_some (w : BitVec 16) (k : RegIx) :
    lowestSet w = some k ↔ w.getLsbD k.val = true ∧ ∀ j < k, w.getLsbD j.val = false := by
  unfold lowestSet
  rw [List.find?_eq_some_iff_getElem]
  simp only [List.getElem_finRange, List.length_finRange, Bool.not_eq_true', Fin.ext_iff]
  constructor
  · rintro ⟨hk, i, hi, he, hlt⟩
    have he' : i = k.val := by simpa using he
    exact ⟨hk, fun j hj => by simpa using hlt j.val (by simpa [he'] using hj)⟩
  · rintro ⟨hk, hlt⟩
    exact ⟨hk, k.val, k.isLt, by simp, fun j hj => by simpa using hlt ⟨j, by omega⟩ hj⟩

/-- The invariant is kept by an update that leaves memory and the stack alone and writes PC and I, if at all, reduced. -/
theorem State.Inv.of_updates {s t : State} (hs : s.Inv) (hm : t.mem = s.mem)
    (hp : t.pc = s.pc ∨ ∃ w, t.pc = wrapAddr w) (hi : t.i = s.i ∨ ∃ w, t.i = wrapAddr w) (hk : t.stack = s.stack) :
    t.Inv := by
  obtain ⟨h1, h2, h3, h4, h5⟩ := hs
  refine ⟨hm ▸ h1, hm ▸ h2, ?_, ?_, hk ▸ h5⟩
  · rcases hp with h | ⟨w, h⟩
    · exact h ▸ h3
    · exact h ▸ wrapAddr_lt w
  · rcases hi with h | ⟨w, h⟩
    · exact h ▸ h4
    · exact h ▸ wrapAddr_lt w

/-- The invariant is kept by an update of memory that keeps it good. -/
theorem State.Inv.of_mem {s : State} {m : Memory} (hs : s.Inv) (hm : Memory.good m) : (s.setMem m).Inv :=
  ⟨hm.1, hm.2, hs.2.2.1, hs.2.2.2.1, hs.2.2.2.2⟩

end Sys2Proof.Machine
end

