-- ==== Sys2Proof/Laws/PerInstr.lean ====
section
/-! SUPPORT. The per-instruction family WordLegal: the word the encoder writes for an instruction is none of the
illegal words of spec/30_encoding.md R78. -/

namespace Sys2Proof.Laws.WordLegal

/-- The instruction's word passes every check of R78. -/
def Statement (i : Instr) : Prop := legalWord (encode i) = true

theorem cls : Statement .cls := rfl

theorem ret : Statement .ret := rfl

theorem jp (nnn : Addr) : Statement (.jp nnn) :=
  legalWord_wordNNN _ _ (by decide)

theorem call (nnn : Addr) : Statement (.call nnn) :=
  legalWord_wordNNN _ _ (by decide)

theorem seImm (x : RegIx) (nn : Byte) : Statement (.seImm x nn) :=
  legalWord_wordXNN _ _ _ (.inl (by decide))

theorem sneImm (x : RegIx) (nn : Byte) : Statement (.sneImm x nn) :=
  legalWord_wordXNN _ _ _ (.inl (by decide))

theorem seReg (x : RegIx) (y : RegIx) : Statement (.seReg x y) :=
  legalWord_wordXYN _ _ _ _ (.inr (.inl (by decide)))

theorem ldImm (x : RegIx) (nn : Byte) : Statement (.ldImm x nn) :=
  legalWord_wordXNN _ _ _ (.inl (by decide))

theorem addImm (x : RegIx) (nn : Byte) : Statement (.addImm x nn) :=
  legalWord_wordXNN _ _ _ (.inl (by decide))

theorem ldReg (x : RegIx) (y : RegIx) : Statement (.ldReg x y) :=
  legalWord_wordXYN _ _ _ _ (.inr (.inr (by decide)))

theorem orReg (x : RegIx) (y : RegIx) : Statement (.orReg x y) :=
  legalWord_wordXYN _ _ _ _ (.inr (.inr (by decide)))

theorem andReg (x : RegIx) (y : RegIx) : Statement (.andReg x y) :=
  legalWord_wordXYN _ _ _ _ (.inr (.inr (by decide)))

theorem xorReg (x : RegIx) (y : RegIx) : Statement (.xorReg x y) :=
  legalWord_wordXYN _ _ _ _ (.inr (.inr (by decide)))

theorem addReg (x : RegIx) (y : RegIx) : Statement (.addReg x y) :=
  legalWord_wordXYN _ _ _ _ (.inr (.inr (by decide)))

theorem subReg (x : RegIx) (y : RegIx) : Statement (.subReg x y) :=
  legalWord_wordXYN _ _ _ _ (.inr (.inr (by decide)))

theorem shrReg (x : RegIx) (y : RegIx) : Statement (.shrReg x y) :=
  legalWord_wordXYN _ _ _ _ (.inr (.inr (by decide)))

theorem subnReg (x : RegIx) (y : RegIx) : Statement (.subnReg x y) :=
  legalWord_wordXYN _ _ _ _ (.inr (.inr (by decide)))

theorem shlReg (x : RegIx) (y : RegIx) : Statement (.shlReg x y) :=
  legalWord_wordXYN _ _ _ _ (.inr (.inr (by decide)))

theorem sneReg (x : RegIx) (y : RegIx) : Statement (.sneReg x y) :=
  legalWord_wordXYN _ _ _ _ (.inr (.inl (by decide)))

theorem ldI (nnn : Addr) : Statement (.ldI nnn) :=
  legalWord_wordNNN _ _ (by decide)

theorem jpV0 (nnn : Addr) : Statement (.jpV0 nnn) :=
  legalWord_wordNNN _ _ (by decide)

theorem rnd (x : RegIx) (nn : Byte) : Statement (.rnd x nn) :=
  legalWord_wordXNN _ _ _ (.inl (by decide))

theorem drw (x : RegIx) (y : RegIx) (n : BitVec 4) : Statement (.drw x y n) :=
  legalWord_wordXYN _ _ _ _ (.inl rfl)

theorem skp (x : RegIx) : Statement (.skp x) :=
  legalWord_wordXNN _ _ _ (.inr (.inl (by decide)))

theorem sknp (x : RegIx) : Statement (.sknp x) :=
  legalWord_wordXNN _ _ _ (.inr (.inl (by decide)))

theorem ldVxDt (x : RegIx) : Statement (.ldVxDt x) :=
  legalWord_wordXNN _ _ _ (.inr (.inr (by decide)))

theorem ldVxK (x : RegIx) : Statement (.ldVxK x) :=
  legalWord_wordXNN _ _ _ (.inr (.inr (by decide)))

theorem ldDtVx (x : RegIx) : Statement (.ldDtVx x) :=
  legalWord_wordXNN _ _ _ (.inr (.inr (by decide)))

theorem ldStVx (x : RegIx) : Statement (.ldStVx x) :=
  legalWord_wordXNN _ _ _ (.inr (.inr (by decide)))

theorem addI (x : RegIx) : Statement (.addI x) :=
  legalWord_wordXNN _ _ _ (.inr (.inr (by decide)))

theorem ldF (x : RegIx) : Statement (.ldF x) :=
  legalWord_wordXNN _ _ _ (.inr (.inr (by decide)))

theorem ldB (x : RegIx) : Statement (.ldB x) :=
  legalWord_wordXNN _ _ _ (.inr (.inr (by decide)))

theorem storeRegs (x : RegIx) : Statement (.storeRegs x) :=
  legalWord_wordXNN _ _ _ (.inr (.inr (by decide)))

theorem loadRegs (x : RegIx) : Statement (.loadRegs x) :=
  legalWord_wordXNN _ _ _ (.inr (.inr (by decide)))

end Sys2Proof.Laws.WordLegal
end

