-- ==== Sys2Proof/Laws/Transactions.lean ====
section
/-! SUPPORT. What a run of transactions does, said once: its state is that of the transactions alone, and its record of
faults only grows (spec/60_exceptions.md R207, D21). And what the host reads of the framebuffer (R165). -/

namespace Sys2Proof.Machine

@[simp] theorem Run.start_state (s : State) : (Run.start s).state = s := rfl
@[simp] theorem Run.start_responses (s : State) : (Run.start s).responses = [] := rfl
@[simp] theorem Run.start_faults (s : State) : (Run.start s).faults = [] := rfl
@[simp] theorem Run.transact_state (r : Run) (t : Transaction) :
    (r.transact t).state = (Machine.transact r.state t).1 := rfl
@[simp] theorem Run.transact_responses (r : Run) (t : Transaction) :
    (r.transact t).responses = r.responses ++ [(Machine.transact r.state t).2] := rfl

/-- A transaction appends to the faults the error it returns, if any. -/
@[simp] theorem Run.transact_faults (r : Run) (t : Transaction) :
    (r.transact t).faults = r.faults ++ (Machine.transact r.state t).2.fault?.toList := by
  unfold Run.faults
  rw [Run.transact_responses, List.filterMap_append]
  cases h : (Machine.transact r.state t).2.fault? <;> simp [h]

/-- The state of a run is that of its transactions alone: the record changes nothing. -/
theorem Run.transactAll_state (ts : List Transaction) : ∀ r : Run,
    (r.transactAll ts).state = Machine.transactAll r.state ts := by
  induction ts with
  | nil => exact fun _ => rfl
  | cons t ts ih => exact fun r => ih (r.transact t)

/-- A run of several transactions, cut in two. -/
theorem Run.transactAll_append (ts us : List Transaction) : ∀ r : Run,
    r.transactAll (ts ++ us) = (r.transactAll ts).transactAll us := by
  induction ts with
  | nil => exact fun _ => rfl
  | cons t ts ih => exact fun r => ih (r.transact t)

/-- The element y * w + x of the concatenation of rows of width w is element x of row y. -/
theorem getElem?_flatten_rows {α : Type} {w x : Nat} (hx : x < w) : ∀ (rows : List (List α)) (y : Nat),
    (∀ row ∈ rows, row.length = w) → rows.flatten[y * w + x]? = rows[y]?.bind (fun row => row[x]?)
  | [], y, _ => by simp
  | row :: rows, 0, h => by
    have hr := h row List.mem_cons_self
    simp [List.getElem?_append_left (l₁ := row) (i := x) (by omega)]
  | row :: rows, y + 1, h => by
    have hr := h row List.mem_cons_self
    have e : (y + 1) * w + x = row.length + (y * w + x) := by rw [hr, Nat.succ_mul]; omega
    rw [List.flatten_cons, e, List.getElem?_append_right (by omega), Nat.add_sub_cancel_left,
      getElem?_flatten_rows hx rows y fun r hm => h r (List.mem_cons_of_mem _ hm), List.getElem?_cons_succ]

/-- What the host reads as the framebuffer is row-major: pixel (x, y) is element y * 64 + x (R28). -/
theorem State.framePixels_getElem? (s : State) (x : Fin 64) (y : Fin 32) :
    s.framePixels[y.val * 64 + x.val]? = some (Frame.pixel s.fb x y) := by
  unfold State.framePixels Frame.pixel
  rw [List.flatMap_def, getElem?_flatten_rows x.isLt _ _ (by simp)]
  simp

end Sys2Proof.Machine
end

