-- ==== Sys2Proof/Tests/Slice0.lean ====
section
/-! SUPPORT. The model's own tests. Expected values are those of spec/95_test_vectors.md (L1-n, L2-n) or of a rule's own
example; the words are written out from spec/30_encoding.md R79. The witnesses at the end meet the hypotheses of the
statements of Certificates/Slice0/Obligations.lean. -/

namespace Sys2Proof.Tests

open Sys2Proof Sys2Proof.Machine Sys2Proof.Certificates

/-- One step on the word `op` placed at the state's PC, and one field of the state after it. -/
def after {α : Type} (s : State) (op : Nat) (field : State → α) : Option α :=
  match step (s.withFetchWord 16 op) with
  | .next t => some (field t)
  | _ => none

/-- The error of one step on the word `op`. -/
def errorOf (s : State) (op : Nat) : Option Fault :=
  match step (s.withFetchWord 16 op) with
  | .fault e => some e
  | _ => none

/-- Reset, with bytes at 0x300 .. and I there. -/
def withData (bytes : List Byte) : State := (State.reset.writeBytes 0x300 bytes).setI 0x300

/-- Reset, with V1 and V2 set. -/
def withV12 (a b : Byte) : State := (State.reset.setV 1 a).setV 2 b

/-- Reset, with one pixel set. -/
def withPixel (x : Fin 64) (y : Fin 32) : State := { State.reset with fb := Frame.flip Frame.blank x y }

/-! ### WellFormed: each check refuses an ill-formed word and accepts a legal one (R78) -/

theorem test_wf_major0 : WellFormed.major0Ok 0x0123 = false ∧ WellFormed.major0Ok 0x01EE = false ∧
    WellFormed.major0Ok 0x00E0 = true := by decide

theorem test_wf_skipReg : WellFormed.skipRegOk 0x5121 = false ∧ WellFormed.skipRegOk 0x9121 = false ∧
    WellFormed.skipRegOk 0x9120 = true := by decide

theorem test_wf_alu : WellFormed.aluOk 0x8128 = false ∧ WellFormed.aluOk 0x812D = false ∧
    WellFormed.aluOk 0x812F = false ∧ WellFormed.aluOk 0x812E = true := by decide

theorem test_wf_key : WellFormed.keyOk 0xE19F = false ∧ WellFormed.keyOk 0xE1A0 = false ∧
    WellFormed.keyOk 0xE1A1 = true := by decide

theorem test_wf_misc : WellFormed.miscOk 0xF1FF = false ∧ WellFormed.miscOk 0xF100 = false ∧
    WellFormed.miscOk 0xF130 = false ∧ WellFormed.miscOk 0xF156 = false ∧ WellFormed.miscOk 0xF165 = true := by decide

theorem test_wf_legalWord : legalWord 0x0000 = false ∧ legalWord 0x5121 = false ∧ legalWord 0x8128 = false ∧
    legalWord 0xE19F = false ∧ legalWord 0xFFFF = false ∧ legalWord 0xD015 = true := by decide

/-! ### Decoding: every constructor, by a word written bit by bit from R79 -/

theorem test_decode_control :
    decode 0b0000000011100000#16 = .ok .cls ∧ decode 0b0000000011101110#16 = .ok .ret ∧
    decode 0b0001101010111100#16 = .ok (.jp 0xABC) ∧ decode 0b0010001100000100#16 = .ok (.call 0x304) ∧
    decode 0b0011000100100010#16 = .ok (.seImm 1 0x22) ∧ decode 0b0100000100100010#16 = .ok (.sneImm 1 0x22) ∧
    decode 0b0101000100100000#16 = .ok (.seReg 1 2) ∧ decode 0b1001000100100000#16 = .ok (.sneReg 1 2) ∧
    decode 0b1011001100000000#16 = .ok (.jpV0 0x300) := by decide

theorem test_decode_alu :
    decode 0b0110101000010010#16 = .ok (.ldImm 10 0x12) ∧ decode 0b0111001100000010#16 = .ok (.addImm 3 0x02) ∧
    decode 0b1000000100100000#16 = .ok (.ldReg 1 2) ∧ decode 0b1000000100100001#16 = .ok (.orReg 1 2) ∧
    decode 0b1000000100100010#16 = .ok (.andReg 1 2) ∧ decode 0b1000000100100011#16 = .ok (.xorReg 1 2) ∧
    decode 0b1000000100100100#16 = .ok (.addReg 1 2) ∧ decode 0b1000000100100101#16 = .ok (.subReg 1 2) ∧
    decode 0b1000000100100110#16 = .ok (.shrReg 1 2) ∧ decode 0b1000000100100111#16 = .ok (.subnReg 1 2) ∧
    decode 0b1000000100101110#16 = .ok (.shlReg 1 2) ∧ decode 0b1100001100001111#16 = .ok (.rnd 3 0x0F) := by decide

theorem test_decode_index_display_input :
    decode 0b1010001011110000#16 = .ok (.ldI 0x2F0) ∧ decode 0b1101000000010101#16 = .ok (.drw 0 1 5) ∧
    decode 0b1110000110011110#16 = .ok (.skp 1) ∧ decode 0b1110000110100001#16 = .ok (.sknp 1) ∧
    decode 0b1111001100000111#16 = .ok (.ldVxDt 3) ∧ decode 0b1111001100001010#16 = .ok (.ldVxK 3) ∧
    decode 0b1111001100010101#16 = .ok (.ldDtVx 3) ∧ decode 0b1111001100011000#16 = .ok (.ldStVx 3) ∧
    decode 0b1111001100011110#16 = .ok (.addI 3) ∧ decode 0b1111001100101001#16 = .ok (.ldF 3) ∧
    decode 0b1111001100110011#16 = .ok (.ldB 3) ∧ decode 0b1111001101010101#16 = .ok (.storeRegs 3) ∧
    decode 0b1111001101100101#16 = .ok (.loadRegs 3) := by decide

theorem test_decode_rejects_by_name :
    decode 0x0000 = .error .major0 ∧ decode 0x5121 = .error .skipLowNibble ∧ decode 0x812F = .error .aluLowNibble ∧
    decode 0xE1A0 = .error .keyLowByte ∧ decode 0xF1FF = .error .miscLowByte ∧
    decodeBytes [0x60] = .error .truncated := by decide

theorem test_decodeTableWord : decodeTableWord 16 0x6A12 = some (.ldImm 10 0x12) ∧ decodeTableWord 16 0 = none := by
  decide

/-! ### The step and its errors -/

/-- L2-1, L2-2: no ROM, and a 0NNN word. -/
theorem test_step_unknownOpcode : errorOf State.reset 0x0000 = some (.unknownOpcode 0x200 0x0000) ∧
    errorOf State.reset 0x0123 = some (.unknownOpcode 0x200 0x0123) := by decide

/-- L2-11: the fetch at 0xFFF wraps; L2-12: an odd PC is legal. -/
theorem test_step_fetch_wraps : after (State.reset.setPc 0xFFF) 0x6012 (fun t => (t.reg 0, t.pc)) = some (0x12, 0x001) ∧
    after (State.reset.setPc 0x201) 0x6A05 (fun t => (t.reg 10, t.pc)) = some (0x05, 0x203) := by decide

/-! ### Control transfer and skips -/

/-- L2-20. -/
theorem test_jp : after State.reset 0x1234 (·.pc) = some 0x234 := by decide

/-- L2-23: a call at 0xFFE pushes 0x000. -/
theorem test_call : after (State.reset.setPc 0xFFE) 0x2400 (fun t => (t.stack[0], t.sp, t.pc)) = some (0x000, 1, 0x400) := by
  decide

/-- L2-24: a call with SP = 16. -/
theorem test_call_overflow : errorOf { State.reset with sp := 16 } 0x2300 = some (.stackOverflow 0x200 0x2300) := by decide

/-- L2-27. -/
theorem test_ret : after { State.reset with sp := 2, stack := State.reset.stack.set 1 0x316 } 0x00EE
    (fun t => (t.sp, t.pc, t.stack[1])) = some (1, 0x316, 0x316) := by decide

/-- L2-26. -/
theorem test_ret_underflow : errorOf State.reset 0x00EE = some (.stackUnderflow 0x200 0x00EE) := by decide

/-- L2-28; L2-33: a skip at 0xFFE. -/
theorem test_seImm : after (withV12 0x22 0) 0x3122 (·.pc) = some 0x204 ∧ after (withV12 0x22 0) 0x3123 (·.pc) = some 0x202 ∧
    after (State.reset.setPc 0xFFE) 0x3000 (·.pc) = some 0x002 := by decide

/-- L2-29. -/
theorem test_sneImm : after (withV12 0x22 0) 0x4122 (·.pc) = some 0x202 ∧
    after (withV12 0x22 0) 0x4123 (·.pc) = some 0x204 := by decide

/-- L2-30, L2-31. -/
theorem test_seReg : after (withV12 7 7) 0x5120 (·.pc) = some 0x204 ∧ after (withV12 7 8) 0x5120 (·.pc) = some 0x202 := by
  decide

/-- L2-30, L2-31. -/
theorem test_sneReg : after (withV12 7 7) 0x9120 (·.pc) = some 0x202 ∧ after (withV12 7 8) 0x9120 (·.pc) = some 0x204 := by
  decide

/-- L2-37: the sum passes 0xFFF; L2-38: V3 is not used. -/
theorem test_jpV0 : after (State.reset.setV 0 0xFF) 0xBFFF (·.pc) = some 0x0FE ∧
    after ((State.reset.setV 0 0x05).setV 3 0x40) 0xB300 (·.pc) = some 0x305 := by decide

/-! ### Register loads and arithmetic -/

/-- L1-4. -/
theorem test_ldImm : after State.reset 0x6A12 (fun t => (t.reg 10, t.pc)) = some (0x12, 0x202) := by decide

/-- L2-41: no carry flag. -/
theorem test_addImm : after ((State.reset.setV 3 0xFF).setV 15 0x07) 0x7302 (fun t => (t.reg 3, t.reg 15)) =
    some (0x01, 0x07) := by decide

/-- L2-43. -/
theorem test_ldReg : after (withV12 0 0x5A) 0x8120 (fun t => (t.reg 1, t.reg 2)) = some (0x5A, 0x5A) := by decide

/-- L2-44. -/
theorem test_orReg : after ((withV12 0xF0 0x0F).setV 15 0x33) 0x8121 (fun t => (t.reg 1, t.reg 15)) = some (0xFF, 0x33) := by
  decide

/-- L2-45. -/
theorem test_andReg : after ((withV12 0xF0 0x3C).setV 15 0x33) 0x8122 (fun t => (t.reg 1, t.reg 15)) =
    some (0x30, 0x33) := by decide

/-- L2-46. -/
theorem test_xorReg : after ((withV12 0xF0 0x3C).setV 15 0x33) 0x8123 (fun t => (t.reg 1, t.reg 15)) =
    some (0xCC, 0x33) := by decide

/-- L2-47, L2-48. -/
theorem test_addReg : after (withV12 0xFF 0x01) 0x8124 (fun t => (t.reg 1, t.reg 15)) = some (0x00, 1) ∧
    after (withV12 0x7F 0x80) 0x8124 (fun t => (t.reg 1, t.reg 15)) = some (0xFF, 0) := by decide

/-- L2-50: x = 15, the flag is what VF holds. -/
theorem test_addReg_vf : after ((State.reset.setV 15 0xFF).setV 1 0x01) 0x8F14 (·.reg 15) = some 1 := by decide

/-- L2-51 to L2-53. -/
theorem test_subReg : after (withV12 5 3) 0x8125 (fun t => (t.reg 1, t.reg 15)) = some (2, 1) ∧
    after (withV12 3 5) 0x8125 (fun t => (t.reg 1, t.reg 15)) = some (0xFE, 0) ∧
    after (withV12 5 5) 0x8125 (fun t => (t.reg 1, t.reg 15)) = some (0, 1) := by decide

/-- L2-54. -/
theorem test_subReg_vf : after ((State.reset.setV 15 0x05).setV 1 0x03) 0x8F15 (·.reg 15) = some 1 := by decide

/-- L2-58: V2 is not used; L2-59. -/
theorem test_shrReg : after (withV12 5 0xFF) 0x8126 (fun t => (t.reg 1, t.reg 15)) = some (2, 1) ∧
    after (withV12 4 0) 0x8106 (fun t => (t.reg 1, t.reg 15)) = some (2, 0) := by decide

/-- L2-55, L2-56. -/
theorem test_subnReg : after (withV12 3 5) 0x8127 (fun t => (t.reg 1, t.reg 15)) = some (2, 1) ∧
    after (withV12 5 3) 0x8127 (fun t => (t.reg 1, t.reg 15)) = some (0xFE, 0) := by decide

/-- L2-61, L2-62, L2-63. -/
theorem test_shlReg : after (withV12 0x81 0) 0x810E (fun t => (t.reg 1, t.reg 15)) = some (2, 1) ∧
    after (withV12 0x40 0) 0x810E (fun t => (t.reg 1, t.reg 15)) = some (0x80, 0) ∧
    after (State.reset.setV 15 0x80) 0x8F0E (·.reg 15) = some 1 := by decide

/-- L2-64, whatever the draw: V3 is the first draw ANDed with nn, and one draw is counted. -/
theorem test_rnd : after State.reset 0xC30F (fun t => (t.reg 3, t.draws)) = some (Config.draw8 0 &&& 0x0F, 1) := rfl

/-! ### Index register, loads and stores -/

/-- L1-5. -/
theorem test_ldI : after State.reset 0xA2F0 (fun t => (t.i, t.pc)) = some (0x2F0, 0x202) := by decide

/-- L2-71: past 0xFFF, VF unchanged. -/
theorem test_addI : after (((State.reset.setI 0xFFF).setV 1 0x02).setV 15 0x07) 0xF11E (fun t => (t.i, t.reg 15)) =
    some (0x001, 0x07) := by decide

/-- L2-74, L2-75, L2-76. -/
theorem test_ldF : after (withV12 0x0F 0) 0xF129 (·.i) = some 0x09B ∧ after (withV12 0x10 0) 0xF129 (·.i) = some 0x0A0 ∧
    after (withV12 0xFF 0) 0xF129 (·.i) = some 0x54B := by decide

/-- L1-11; L2-81: the addresses wrap. -/
theorem test_ldB : after ((State.reset.setV 1 234).setI 0x300) 0xF133
      (fun t => (t.readByte 0x300, t.readByte 0x301, t.readByte 0x302)) = some (2, 3, 4) ∧
    after ((State.reset.setV 1 0x7B).setI 0xFFE) 0xF133
      (fun t => (t.readByte 0xFFE, t.readByte 0xFFF, t.readByte 0x000, t.i)) = some (1, 2, 3, 0xFFE) := by decide

/-- L2-82: of the three bytes only the one below the font is written. -/
theorem test_ldB_font : (((State.reset.setV 1 0x7B).setI 0x04F).writeBytes 0x04F (bcdDigits 0x7B)).mem = [(0x04F, 1)] := by
  decide

/-- L2-83, L2-84: both values of the parameter. -/
theorem test_storeRegs : ((fun t : State => (t.mem, t.i)) (storeRegsWith false 2 (((withV12 2 3).setV 0 1).setI 0x300)) =
      ([(0x300, 1), (0x301, 2), (0x302, 3)], 0x300)) ∧
    ((fun t : State => (t.mem, t.i)) (storeRegsWith true 2 (((withV12 2 3).setV 0 1).setI 0x300)) =
      ([(0x300, 1), (0x301, 2), (0x302, 3)], 0x303)) := by decide

/-- L2-88: the addresses and I wrap; L2-89: the font byte is dropped. -/
theorem test_storeRegs_edges :
    ((fun t : State => (t.mem, t.i)) (storeRegsWith true 1 (((withV12 0x22 0).setV 0 0x11).setI 0xFFF)) =
      ([(0x000, 0x22), (0xFFF, 0x11)], 0x001)) ∧
    (storeRegsWith false 1 (((withV12 0x22 0).setV 0 0x11).setI 0x09F)).mem = [(0x0A0, 0x22)] := by decide

/-- L2-85, L2-86: both values of the parameter. -/
theorem test_loadRegs :
    ((fun t : State => (t.reg 0, t.reg 1, t.reg 2, t.reg 3, t.i)) (loadRegsWith false 2 (withData [0x0A, 0x0B, 0x0C, 0x0D])) =
      (0x0A, 0x0B, 0x0C, 0, 0x300)) ∧
    (loadRegsWith true 2 (withData [0x0A, 0x0B, 0x0C])).i = 0x303 := by decide

/-- L2-91, on the default table of R56: glyph 0 is F0 90 90 90 F0; and glyph A is F0 90 F0 90 90 (P6). -/
theorem test_default_font : (List.range 5).map (fun k => resetByteOf Config.defaultFontTable (0x050 + k)) =
      [0xF0, 0x90, 0x90, 0x90, 0xF0] ∧
    (List.range 5).map (fun k => resetByteOf Config.defaultFontTable (0x082 + k)) = [0xF0, 0x90, 0xF0, 0x90, 0x90] := by
  decide

/-! ### Display -/

/-- L2-100. -/
theorem test_cls : after (withPixel 3 4) 0x00E0 (fun t => (Frame.pixel t.fb 3 4, t.drawFlag)) = some (false, true) := by decide

/-- L2-102: the draw wraps on the horizontal axis. -/
theorem test_drw_wraps : after (((withData [0xC0]).setV 0 0x3F).setV 1 0x1F) 0xD011
    (fun t => (Frame.pixel t.fb 63 31, Frame.pixel t.fb 0 31, t.reg 15, t.drawFlag)) = some (true, true, 0, true) := by
  decide +kernel

/-- L2-106: a collision; L2-108: n = 0 leaves VF = 0. -/
theorem test_drw_collision : after { withData [0x80] with fb := Frame.flip Frame.blank 0 0 } 0xD011
      (fun t => (Frame.pixel t.fb 0 0, t.reg 15)) = some (false, 1) ∧
    after ((withPixel 0 0).setV 15 7) 0xD010 (fun t => (Frame.pixel t.fb 0 0, t.reg 15)) = some (true, 0) := by
  decide +kernel

/-! ### Timers, keypad and the key wait -/

/-- L2-120. -/
theorem test_ldVxDt : after (State.reset.setDt 0x2A) 0xF307 (·.reg 3) = some 0x2A := by decide

/-- R181's example. -/
theorem test_ldDtVx : after (withV12 0x3C 0) 0xF115 (·.dt) = some 0x3C := by decide

/-- L2-122. -/
theorem test_ldStVx : after (State.reset.setV 3 0xFF) 0xF318 (fun t => (t.st, t.soundActive)) = some (0xFF, true) := by decide

/-- L2-126, L2-128: key 0x15 mod 16 is key 5. -/
theorem test_skp : after ((withV12 5 0).setKey 5 true) 0xE19E (·.pc) = some 0x204 ∧ after (withV12 5 0) 0xE19E (·.pc) = some 0x202 ∧
    after ((withV12 0x15 0).setKey 5 true) 0xE19E (·.pc) = some 0x204 := by decide

/-- L2-126, L2-127. -/
theorem test_sknp : after ((withV12 5 0).setKey 5 true) 0xE1A1 (·.pc) = some 0x202 ∧
    after (withV12 5 0) 0xE1A1 (·.pc) = some 0x204 := by decide

/-- L1-10, first step; L2-130: a key held at entry is masked. -/
theorem test_ldVxK : after (State.reset.setKey 3 true) 0xF30A (fun t => (t.pc, t.waiting, t.waitReg, t.waitMask)) =
    some (0x200, true, 3, 0x0008) := by decide

/-- L2-132: the lowest fresh key; L2-133: a key released before the step is not seen. -/
theorem test_keyWait :
    ((fun t : State => (t.reg 2, t.pc, t.waiting))
      (keyWaitCheck (((State.reset.enterWait 2).setKey 9 true).setKey 4 true)) = (4, 0x202, false)) ∧
    ((fun t : State => (t.pc, t.waiting))
      (keyWaitCheck (((State.reset.enterWait 2).setKey 6 true).setKey 6 false)) = (0x200, true)) := by decide

/-- L2-131: a key released and pressed again is fresh. -/
theorem test_keyWait_again : (keyWaitCheck ((((State.reset.setKey 3 true).enterWait 0).setKey 3 false).setKey 3 true)).waiting =
    false := by decide

/-! ### Transactions -/

/-- L2-124 and L2-129. -/
theorem test_tick_setKey : ((fun t : State => (t.dt, t.st)) (State.reset.setSt 3).tick = (0, 2)) ∧
    (State.reset.setKey 0x13 true).keys = 0x0008 := by decide

/-- L2-111. -/
theorem test_consumeDrawFlag : (transact { State.reset with drawFlag := true } .consumeDrawFlag).2 = .bit true ∧
    (transact State.reset .consumeDrawFlag).2 = .bit false := by decide

/-- L1-2; L2-141: a second, shorter load. -/
theorem test_load : (transact State.reset (.load [0xAA, 0xBB, 0xCC])).1.mem = [(0x200, 0xAA), (0x201, 0xBB), (0x202, 0xCC)] ∧
    (transactAll State.reset [.load [0x11, 0x22, 0x33], .load [0x44]]).mem = [(0x200, 0x44), (0x201, 0x22), (0x202, 0x33)] := by
  decide

/-- L2-142: a load after the first step is refused; L2-143: reset clears memory and `started`. -/
theorem test_load_refused : (transact { State.reset with started := true } (.load [0x00])).2 = .refused .loadAfterStart ∧
    ((fun t : State => (t.readByte 0x300, t.readByte 0x200, t.started))
      (transactAll { withData [0x55] with started := true } [.reset, .load [0x12]]) = (0, 0x12, false)) := by decide

/-- The cause codes, from the table of R200. -/
theorem test_codes : (Fault.romTooLarge 3585).code = 1 ∧ (Fault.stackOverflow 0 0).code = 2 ∧
    (Fault.stackUnderflow 0 0).code = 3 ∧ (Fault.unknownOpcode 0 0).code = 4 := by decide

/-- A run records the error of its step (R94: with no ROM, R234), and a reset does not clear it (R207, D21). -/
theorem test_run_records : ((Run.start State.reset).transactAll [.step, .reset]).faults = [.unknownOpcode 0x200 0] ∧
    ((Run.start State.reset).transactAll [.step, .reset]).faulted = true ∧
    ((Run.start State.reset).transactAll [.load [0x00, 0xE0], .step]).faulted = false := by decide

/-- Pixel (5, 1) is element 1 * 64 + 5 of what the host reads (R28, R165). -/
theorem test_readFramebuffer : (match (transact (State.reset.setDisplay (Frame.blank.flip 5 1)) .readFramebuffer).2 with
    | .pixels l => (l[69]?, l[68]?, l[325]?)
    | _ => (none, none, none)) = (some true, some false, some false) := by decide

/-! ### Witnesses: a state and operands that meet the hypotheses of each statement that has any -/

/-- The word 0x6A12 decodes (EncodeOfDecode). -/
theorem witness_EncodeOfDecode : decode 0x6A12 = .ok (.ldImm 10 0x12) := by decide

/-- A word that matches a row (OpcodeMapRows), on both sides. -/
theorem witness_OpcodeMapRows : (0x6A12#16 &&& 0xF000#16 = 0x6000#16) ∧ decode 0x6A12 = .ok (.ldImm 10 0x12) := by decide

/-- A state that runs a decoded instruction (StepRunsDecodedInstruction). -/
theorem witness_StepRunsDecodedInstruction : (State.reset.withFetchWord 16 0x6A12).waiting = false ∧
    decode (State.reset.withFetchWord 16 0x6A12).fetchWord = .ok (.ldImm 10 0x12) := by decide

/-- A step that fails, one for each error (OnlyCallRetAndIllegalWordsFail, ErrorLeavesStateAndRepeats). -/
theorem witness_ErrorLeavesStateAndRepeats : errorOf State.reset 0x00EE = some (.stackUnderflow 0x200 0x00EE) ∧
    errorOf { State.reset with sp := 16 } 0x2300 = some (.stackOverflow 0x200 0x2300) ∧
    step State.reset = .fault (.unknownOpcode 0x200 0x0000) ∧
    (transact State.reset .step).2 = .error (.unknownOpcode 0x200 0x0000) ∧
    (∀ e, (transact State.reset .tick).2 ≠ .error e) ∧
    ((Run.start State.reset).transact .step).faulted = true :=
  ⟨by decide, by decide, rfl, by decide, fun e h => (by cases h), by decide⟩

/-- Instructions that do not fail: a call with SP = 15 and a return with SP = 1, the boundary values, and any other
(DecodedInstructionsComplete). -/
theorem witness_DecodedInstructionsComplete : ¬ (Instr.call 0x300).fails { State.reset with sp := 15 } ∧
    ¬ Instr.ret.fails { State.reset with sp := 1 } ∧ ¬ Instr.cls.fails State.reset := by
  simp [Instr.fails, Instr.isCall, State.reset]

/-- A state with the invariant (FontReadsFontTable at k = 0 and k = 79, TransactionsKeepInvariant). -/
theorem witness_Inv : State.reset.Inv ∧ (withData [0x12]).Inv ∧ 0 < 80 ∧ 79 < 80 := by decide

/-- A state with the invariant whose step gives a next state (StepKeepsInvariant, FontBytesImmutable at 0x050 and 0x09F). -/
theorem witness_StepKeepsInvariant : (State.reset.withFetchWord 16 0x6A12).Inv ∧
    (∃ t, step (State.reset.withFetchWord 16 0x6A12) = .next t) ∧ 0x050 ≤ 0x050 % 4096 ∧ 0x09F % 4096 < 0x0A0 :=
  ⟨by decide, ⟨_, rfl⟩, by decide, by decide⟩

/-- Instructions that complete, with what they leave alone (RegistersUnchangedButWritten, FlagWrittenOnlyByFlagWriters,
MemoryUnchangedButStored, OtherStateUnchangedButWritten, SuccessorPc). -/
theorem witness_frames : (∃ t, exec (.addReg 1 2) State.reset = .next t) ∧ (Instr.addReg 1 2).writesReg 3 = false ∧
    (Instr.addReg 1 2).writesFlag = true ∧ (Instr.ldImm 1 0).writesFlag = false ∧ (Instr.ldImm 1 0).writesResult 15 = false ∧
    (∃ t, exec (.ldB 1) (withData []) = .next t) ∧ ¬ (Instr.ldB 1).storesTo (withData []) 0x303 ∧
    (Instr.ldImm 1 0).writesI = false ∧ (Instr.ldImm 1 0).isCall = false := by
  refine ⟨⟨_, rfl⟩, by decide, rfl, rfl, rfl, ⟨_, rfl⟩, ?_, rfl, rfl⟩
  rintro ⟨k, hk, h⟩
  have : k < 3 := hk
  have h : (0x300 + k) % 4096 = 0x303 % 4096 := h
  omega

/-- SP above 0, 16 and below 16, and a stacked address below 4096 (RetPopsReturnAddress, CallPushesAndJumps). -/
theorem witness_stack : 0 < ({ State.reset with sp := 1 } : State).sp.val ∧ State.reset.sp = 0 ∧
    State.reset.stack[0].toNat < 4096 ∧ ({ State.reset with sp := 15 } : State).sp.val < 16 ∧
    ({ State.reset with sp := 16 } : State).sp = 16 := by decide

/-- A low nibble other than 0 (SkipOnRegisters). -/
theorem witness_SkipOnRegisters : (0xF#4 ≠ 0) ∧ (1#4 ≠ 0) := by decide

/-- A call that completes with SP = 15 before it (CallThenRetComesBack). -/
theorem witness_CallThenRetComesBack : ∃ t, exec (.call 0x300) { State.reset with sp := 15 } = .next t := ⟨_, rfl⟩

/-- PC where an advance by 2 stays below 4096, at the boundary (every result statement); a register other than x and VF. -/
theorem witness_advancesByTwo : (State.reset.setPc 0xFFD).pc.toNat + 2 < 4096 ∧ ((1 : RegIx) ≠ 2) ∧ ((1 : RegIx) ≠ 15) := by
  decide

/-- A bit outside nn (RndMasksOneDraw). -/
theorem witness_RndMasksOneDraw : (0x0F : Byte).getLsbD 4 = false := by decide

/-- Stored bytes and addresses next to the font range and at the wrap (LdBStoresDigits, StoreRegsStores, LoadRegsLoads). -/
theorem witness_stores : isFontAddr ((0x04F + 0) % 4096) = false ∧ isFontAddr (0x050 % 4096) = true ∧
    isFontAddr (0x09F % 4096) = true ∧ isFontAddr (0x0A0 % 4096) = false ∧
    (∀ k, k < 3 → (0xFFE + k) % 4096 ≠ 0x001 % 4096) ∧ ((2 : RegIx) ≤ 2) ∧ ((2 : RegIx) < 3) := by decide

/-- A covered pixel that was set, and a state with none (DrwXorsSprite). -/
theorem witness_DrwXorsSprite :
    (∃ X Y, spriteCovers { withData [0x80] with fb := Frame.flip Frame.blank 0 0 } 0 1 1 X Y ∧
      Frame.pixel (Frame.flip Frame.blank 0 0) X Y = true) ∧
    ¬ ∃ X Y, spriteCovers State.reset 0 1 0 X Y ∧ Frame.pixel State.reset.fb X Y = true :=
  ⟨⟨0, 0, ⟨0, 0, by decide, by decide, by decide, by decide, by decide⟩, by decide⟩,
    fun ⟨_, _, ⟨_, _, h, _⟩, _⟩ => absurd h (Nat.not_lt_zero _)⟩

/-- Two draws at the same place, the second with VF as the x register of another number (DrawingTwiceRestoresFrame). -/
theorem witness_DrawingTwiceRestoresFrame : ∃ t, exec (.drw 0 1 1) (withData [0x80]) = .next t ∧
    (t.reg 15).toNat % 64 = ((withData [0x80]).reg 0).toNat % 64 ∧
    (t.reg 1).toNat % 32 = ((withData [0x80]).reg 1).toNat % 32 := ⟨_, rfl, by decide +kernel, by decide +kernel⟩

/-- A sprite with a set bit, drawn twice (SecondDrawAlwaysCollides). -/
theorem witness_SecondDrawAlwaysCollides : (∃ X Y, spriteCovers (withData [0x80]) 0 1 1 X Y) ∧
    ∃ t u, exec (.drw 0 1 1) (withData [0x80]) = .next t ∧ exec (.drw 0 1 1) t = .next u :=
  ⟨⟨0, 0, 0, 0, by decide, by decide, by decide, by decide, by decide⟩, ⟨_, _, rfl, rfl⟩⟩

/-- A waiting state with no fresh key, and one with key 15 fresh and none below it (KeyWaitStep,
KeyWaitEndsOnlyByFreshKeyOrReset). -/
theorem witness_KeyWaitStep : (State.reset.enterWait 2).waiting = true ∧
    (∀ k, k < 16 → ¬((State.reset.enterWait 2).keys.getLsbD k = true ∧ (State.reset.enterWait 2).waitMask.getLsbD k = false)) ∧
    ((State.reset.enterWait 2).setKey 15 true).keys.getLsbD 15 = true ∧
    ((State.reset.enterWait 2).setKey 15 true).waitMask.getLsbD 15 = false ∧
    (∀ j, j < 15 → ¬(((State.reset.enterWait 2).setKey 15 true).keys.getLsbD j = true ∧
      ((State.reset.enterWait 2).setKey 15 true).waitMask.getLsbD j = false)) := by decide

/-- A wait that ends in a step with a fresh key (KeyWaitEndsOnlyByFreshKeyOrReset). -/
theorem witness_KeyWaitEndsOnlyByFreshKeyOrReset : ((State.reset.enterWait 2).setKey 0 true).waiting = true ∧
    (transact ((State.reset.enterWait 2).setKey 0 true) .step).1.waiting = false := by decide

/-- Press and release, and another key (SetKeyRecordsKey). -/
theorem witness_SetKeyRecordsKey : ((4 : Nat) ≠ 0x13 % 16) ∧ (true = true) ∧ (false = false) := by decide

/-- ROM lengths at the boundary: 3584 bytes are accepted and 3585 are not (LoadCopiesRom), from a state before the first
step, and a state after it (LoadRefusedAfterFirstStep). -/
theorem witness_LoadCopiesRom : State.reset.started = false ∧ (List.replicate 3584 (0x11 : Byte)).length ≤ 3584 ∧
    3584 < (List.replicate 3585 (0x11 : Byte)).length ∧ (0 < 0x200 + 3584) ∧ State.reset.markStarted.started = true :=
  ⟨rfl, (List.length_replicate ..).le, by rw [List.length_replicate]; omega, by decide, rfl⟩

/-- The font's two ends and an address outside it (ResetLeavesResetValues). -/
theorem witness_ResetLeavesResetValues : 0 < 80 ∧ 79 < 80 ∧ 0x04F < 4096 ∧ 0x04F < 0x050 ∧ 0xFFF < 4096 ∧ 0x0A0 ≤ 0xFFF := by
  decide

/-- A read is none of the transactions that change state, and a state with drawFlag set (TransactionsChangeOnlyTheirState). -/
theorem witness_TransactionsChangeOnlyTheirState : Transaction.readRegisters ≠ .reset ∧
    (∀ k p, Transaction.readRegisters ≠ .setKey k p) ∧ (∀ rom, Transaction.readRegisters ≠ .load rom) ∧
    Transaction.readRegisters ≠ .consumeDrawFlag ∧ Transaction.readRegisters ≠ .step ∧ Transaction.readRegisters ≠ .tick ∧
    (State.reset.setDisplay Frame.blank).drawFlag = true :=
  ⟨by decide, fun _ _ => by simp, fun _ => by simp, by decide, by decide, by decide, rfl⟩

/-- A sequence with a step that runs no display instruction, after drawFlag was set (ConsumeDrawFlagReturnsAndClears). -/
theorem witness_ConsumeDrawFlagReturnsAndClears : (State.reset.setDisplay Frame.blank).drawFlag = true ∧
    ∀ before after, [Transaction.step] = before ++ .step :: after →
      decode (transactAll (transact (State.reset.setDisplay Frame.blank) .consumeDrawFlag).1 before).fetchWord ≠ .ok .cls ∧
        ∀ x y n, decode (transactAll (transact (State.reset.setDisplay Frame.blank) .consumeDrawFlag).1
          before).fetchWord ≠ .ok (.drw x y n) := by
  refine ⟨rfl, fun before after h => ?_⟩
  have hb : before = [] := by
    cases before with
    | nil => rfl
    | cons _ l => cases l <;> simp at h
  subst hb
  have hd : (match decode (State.reset.setDisplay Frame.blank).clearDrawFlag.fetchWord with
      | .ok _ => false
      | .error _ => true) = true := by decide
  refine ⟨fun e => ?_, fun x y n e => ?_⟩ <;>
    · change decode (State.reset.setDisplay Frame.blank).clearDrawFlag.fetchWord = _ at e
      rw [e] at hd
      cases hd

end Sys2Proof.Tests
end

section
/-! PROOF. The statements of the state family. `Effect` says once what an instruction that completes does; the invariant
(O12) and the frames (O16, O17, O19) are each one case split over it. -/

namespace Sys2Proof.Machine

/-! ### What an instruction that completes does -/

/-- The shapes of a completed execution: a change of PC alone, a register result, a result with a flag and a write of I,
each shared by several instructions, and the instructions that have a shape of their own. -/
inductive Effect (s : State) : Instr → State → Prop where
  /-- Jumps and skips. -/
  | jump {i : Instr} {w : Word} (hf : i.writesFlag = false) : Effect s i (s.setPc w)
  /-- Loads, logic and adds to a register, which leave VF alone (D11, D12). -/
  | result {i : Instr} {x : RegIx} {b : Byte} (hf : i.writesFlag = false) (hx : i.writesResult x = true) :
      Effect s i (s.setV x b).advance
  /-- `8XY4` to `8XY7` and `8XYE`, the flag last (D10). -/
  | resultAndFlag {i : Instr} {x : RegIx} {b : Byte} {f : Bool} (hf : i.writesFlag = true)
      (hx : i.writesResult x = true) : Effect s i (s.setResultAndFlag x b f).advance
  /-- `ANNN`, `FX1E` and `FX29`. -/
  | index {i : Instr} {w : Word} (hf : i.writesFlag = false) (hi : i.writesI = true) : Effect s i (s.setI w).advance
  | ret {a : Word} {sp : Fin 17} : Effect s .ret ((s.setStack s.stack sp).setPc a)
  | call {nnn : Addr} {sp : Fin 17} (h : s.sp.val < 16) :
      Effect s (.call nnn) ((s.setStack (s.stack.set s.sp.val s.returnAddr h) sp).setPc (immAddr nnn))
  | rnd {x : RegIx} {nn b : Byte} : Effect s (.rnd x nn) (s.countDraw.setV x b).advance
  | cls {fb : Frame} : Effect s .cls (s.setDisplay fb).advance
  | drw {x y : RegIx} {n : BitVec 4} {fb : Frame} {f : Bool} :
      Effect s (.drw x y n) ((s.setDisplay fb).setFlag f).advance
  | ldDtVx {x : RegIx} {b : Byte} : Effect s (.ldDtVx x) (s.setDt b).advance
  | ldStVx {x : RegIx} {b : Byte} : Effect s (.ldStVx x) (s.setSt b).advance
  | ldVxK {x : RegIx} : Effect s (.ldVxK x) (s.enterWait x)
  | ldB {x : RegIx} {bs : List Byte} : Effect s (.ldB x) (s.writeBytes s.dataAddr bs).advance
  | storeRegs {x : RegIx} : Effect s (.storeRegs x) (storeRegsWith Config.quirkLsIncrementI x s)
  | loadRegs {x : RegIx} : Effect s (.loadRegs x) (loadRegsWith Config.quirkLsIncrementI x s)

/-- What an instruction can do when it completes. -/
theorem exec_effect {s t : State} : ∀ {i : Instr}, exec i s = .next t → Effect s i t
  | .cls, rfl => .cls
  | .ret, h => by
    rcases exec_ret_cases s with ⟨_, e⟩ | ⟨_, e⟩
    · cases e.symm.trans h; exact .ret
    · cases e.symm.trans h
  | .call nnn, h => by
    rcases exec_call_cases nnn s with ⟨hsp, e⟩ | ⟨_, e⟩
    · cases e.symm.trans h; exact .call hsp
    · cases e.symm.trans h
  | .jp _, rfl | .jpV0 _, rfl | .seImm _ _, rfl | .sneImm _ _, rfl | .seReg _ _, rfl | .sneReg _ _, rfl
  | .skp _, rfl | .sknp _, rfl => .jump rfl
  | .ldImm x _, rfl | .addImm x _, rfl | .ldReg x _, rfl | .orReg x _, rfl | .andReg x _, rfl | .xorReg x _, rfl
  | .ldVxDt x, rfl => .result rfl (beq_self_eq_true x)
  | .addReg x _, rfl | .subReg x _, rfl | .shrReg x _, rfl | .subnReg x _, rfl | .shlReg x _, rfl =>
    .resultAndFlag rfl (beq_self_eq_true x)
  | .ldI _, rfl | .addI _, rfl | .ldF _, rfl => .index rfl rfl
  | .rnd _ _, rfl => .rnd
  | .drw _ _ _, rfl => .drw
  | .ldVxK _, rfl => .ldVxK
  | .ldDtVx _, rfl => .ldDtVx
  | .ldStVx _, rfl => .ldStVx
  | .ldB _, rfl => .ldB
  | .storeRegs _, rfl => .storeRegs
  | .loadRegs _, rfl => .loadRegs

/-! ### The invariant

An update of none of memory, PC, I and the stack keeps the invariant as it stands: `s.Inv` is then the updated state's
by definition. -/

theorem State.Inv.good {s : State} (hs : s.Inv) : Memory.good s.mem := by
  obtain ⟨hwf, hfont, -⟩ := hs
  exact ⟨hwf, hfont⟩

theorem State.Inv.setRegs {s : State} {v : Vector Byte 16} (hs : s.Inv) : (s.setRegs v).Inv := hs

theorem State.Inv.setPc {s : State} {w : Word} (hs : s.Inv) : (s.setPc w).Inv :=
  hs.of_updates rfl (.inr ⟨w, rfl⟩) (.inl rfl) rfl

theorem State.Inv.advance {s : State} (hs : s.Inv) : s.advance.Inv := hs.setPc

theorem State.Inv.setI {s : State} {w : Word} (hs : s.Inv) : (s.setI w).Inv :=
  hs.of_updates rfl (.inl rfl) (.inr ⟨w, rfl⟩) rfl

theorem State.Inv.advanceI {s : State} {q : Bool} {x : RegIx} (hs : s.Inv) : (s.advanceI q x).Inv := by
  cases q
  · exact hs
  · exact hs.setI

/-- A write of bytes drops those for the font (D19), so memory stays good. -/
theorem State.Inv.writeBytes {s : State} {a : Nat} {bs : List Byte} (hs : s.Inv) : (s.writeBytes a bs).Inv :=
  hs.of_mem (Memory.good_storeList bs hs.good)

/-- A stack entry below 4096 may be replaced by another. -/
theorem State.Inv.setStack_set {s : State} {k : Nat} {a : Word} {sp : Fin 17} (hs : s.Inv) (hk : k < 16)
    (ha : a.toNat < 4096) : (s.setStack (s.stack.set k a hk) sp).Inv := by
  obtain ⟨hwf, hfont, hpc, hi, hstack⟩ := hs
  refine ⟨hwf, hfont, hpc, hi, fun j => ?_⟩
  by_cases hj : k = j.val
  · simpa [hj] using ha
  · simpa [hj] using hstack j

/-- PC and I are written reduced, the entry a call pushes is the reduced return address, and the stores are the
machine's `write8`: every shape keeps the invariant. -/
theorem Effect.inv {i : Instr} {s t : State} (he : Effect s i t) (hs : s.Inv) : t.Inv := by
  cases he with
  | jump | ret => exact State.Inv.setPc hs
  | result | resultAndFlag | rnd | cls | drw | ldDtVx | ldStVx => exact State.Inv.advance hs
  | index => exact hs.setI.advance
  | call hsp => exact (hs.setStack_set hsp (wrapAddr_lt _)).setPc
  | ldVxK => exact hs
  | ldB => exact hs.writeBytes.advance
  | storeRegs => exact hs.writeBytes.advanceI.advance
  | loadRegs => exact hs.setRegs.advanceI.advance

theorem keyWaitCheck_inv {s : State} (hs : s.Inv) : (keyWaitCheck s).Inv := by
  rcases keyWaitCheck_cases s with ⟨-, e⟩ | ⟨k, -, e⟩
  · rw [e]; exact hs
  · rw [e]; exact State.Inv.advance hs

/-- Settles O12: a step that answers a next state is the key-wait check or the execution of the decoded instruction. -/
theorem stepKeepsInvariant : Obligations.StepKeepsInvariant := by
  intro s t hs h
  have hs1 : s.markStarted.Inv := hs
  rcases step_cases s with ⟨-, e⟩ | ⟨-, r, -, e⟩ | ⟨-, i, -, e⟩
  · cases e.symm.trans h
    exact keyWaitCheck_inv hs1
  · cases e.symm.trans h
  · exact (exec_effect (e.symm.trans h)).inv hs1

/-! ### The frame of the general registers, and the flag -/

theorem writesReg_eq_false {i : Instr} {r : RegIx} :
    i.writesReg r = false ↔ i.writesResult r = false ∧ (i.writesFlag = true → r ≠ 15) := by
  simp [Instr.writesReg]

theorem ne_of_writesResult {i : Instr} {x r : RegIx} (hx : i.writesResult x = true)
    (hr : i.writesResult r = false) : r ≠ x := by
  rintro rfl
  exact Bool.false_ne_true (hr.symm.trans hx)

@[simp] theorem State.advanceI_reg (s : State) (q : Bool) (x r : RegIx) : (s.advanceI q x).reg r = s.reg r := by
  cases q <;> rfl

theorem Effect.reg_eq {i : Instr} {s t : State} (he : Effect s i t) {r : RegIx} (hr : i.writesReg r = false) :
    t.reg r = s.reg r := by
  obtain ⟨hres, hflag⟩ := writesReg_eq_false.1 hr
  cases he with
  | jump | index | ret | call | cls | ldDtVx | ldStVx | ldVxK | ldB => rfl
  | result _ hx => exact State.reg_setV_ne s _ (ne_of_writesResult hx hres)
  | resultAndFlag hf hx => exact State.reg_setResultAndFlag_other s _ _ (ne_of_writesResult hx hres) (hflag hf)
  | rnd => exact State.reg_setV_ne s.countDraw _ (by simpa [Instr.writesResult] using hres)
  | drw => exact State.reg_setV_ne (s.setDisplay _) _ (hflag rfl)
  | storeRegs => simp [storeRegsWith]
  | loadRegs =>
    have hle : ¬ r ≤ _ := of_decide_eq_false hres
    simp [loadRegsWith, State.reg_setRegs_loadedRegs, hle]

/-- A flag writer writes VF last (D10), so VF holds the flag. -/
theorem Effect.flag {i : Instr} {s t : State} (he : Effect s i t) (hi : i.writesFlag = true) :
    ∃ f, t.reg 15 = flagByte f := by
  cases he with
  | resultAndFlag => exact ⟨_, State.reg_setResultAndFlag_flag s _ _ _⟩
  | drw => exact ⟨_, State.reg_setFlag (s.setDisplay _) _⟩
  | jump hf | result hf | index hf => exact absurd hi (hf ▸ Bool.false_ne_true)
  | ret | call | rnd | cls | ldDtVx | ldStVx | ldVxK | ldB | storeRegs | loadRegs => cases hi

/-- Settles O16, shape by shape: a write to a register leaves the others alone. -/
theorem registersUnchangedButWritten : Obligations.RegistersUnchangedButWritten :=
  fun _ _ _ h _ hr => (exec_effect h).reg_eq hr

/-- Settles O17: the second clause is the register frame at VF. -/
theorem flagWrittenOnlyByFlagWriters : Obligations.FlagWrittenOnlyByFlagWriters := by
  intro i s t h
  refine ⟨fun hf => ?_, fun hf hres => ?_⟩
  · obtain ⟨f, hv⟩ := (exec_effect h).flag hf
    exact hv ▸ flagByte_cases f
  · exact (exec_effect h).reg_eq (writesReg_eq_false.2 ⟨hres, fun hw => absurd hw (hf ▸ Bool.false_ne_true)⟩)

/-! ### The frame of the rest of the state -/

/-- Settles O19: a shape leaves every field but its own as it was, and whether `FX55` and `FX65` write I is the open
parameter. -/
theorem otherStateUnchangedButWritten : Obligations.OtherStateUnchangedButWritten := by
  intro i s t h
  cases exec_effect h with
  | jump | result | resultAndFlag => simp
  | index _ hi => simp [hi]
  | ret | call => simp [Instr.isCall]
  | rnd | cls | drw | ldDtVx | ldStVx | ldVxK | ldB => simp
  | storeRegs | loadRegs =>
    cases hq : Config.quirkLsIncrementI <;>
      simp [storeRegsWith, loadRegsWith, Instr.writesI, hq, State.advanceI_true, State.advanceI_false]

end Sys2Proof.Machine
end

section
/-! PROOF. The statements of the memory family. `exec_mem` says once what an instruction that completes does to memory: it
is a run of the machine's `write8` from I upward, no longer than the store width; the memory frame (O18) and the constant
font bytes (O15) are the two laws of such a run. -/

namespace Sys2Proof.Machine

/-! ### Reads -/

@[simp] theorem State.readByte_mod (s : State) (a : Nat) : s.readByte (a % 4096) = s.readByte a :=
  congrArg (Memory.read s.mem) (mod_mod_4096 a)

theorem State.readByte_of_mem {t : State} {m : Memory} (h : t.mem = m) (a : Nat) : t.readByte a = Memory.load m a :=
  congrArg (Memory.load · a) h

theorem joinBytes_toNat (hi lo : Byte) : (joinBytes hi lo).toNat = 256 * hi.toNat + lo.toNat := by
  rw [joinBytes, toNat_append_add]
  omega

/-- Settles O7: `readByte` reduces its address itself (R51), and the two bytes are joined high byte first. -/
theorem fetchIsBigEndian : Obligations.FetchIsBigEndian := by
  intro s
  rw [State.readByte_mod, State.readByte_mod]
  exact joinBytes_toNat _ _

/-! ### The font -/

theorem isFontAddr_iff {a : Nat} : isFontAddr a = true ↔ 0x050 ≤ a ∧ a < 0x0A0 := decide_eq_true_iff

theorem unlistedByte_font {k : Nat} (hk : k < 80) : unlistedByte (0x050 + k) = Config.fontTable[k] := by
  have hfont : 0x050 ≤ 0x050 + k ∧ 0x050 + k < 0x0A0 := by omega
  simp [unlistedByte, resetByteOf, hfont]

/-- Settles O14: with the invariant no font byte is listed, so each reads as reset left it. -/
theorem fontReadsFontTable : Obligations.FontReadsFontTable := by
  intro s k hk hs
  have hmod : (0x050 + k) % 4096 = 0x050 + k := Nat.mod_eq_of_lt (by omega)
  have hfont : isFontAddr ((0x050 + k) % 4096) = true := isFontAddr_iff.2 (by omega)
  calc s.readByte (0x050 + k)
      = unlistedByte ((0x050 + k) % 4096) := Memory.load_font hs.good hfont
    _ = Config.fontTable[k] := by rw [hmod, unlistedByte_font hk]

/-! ### What an execution stores -/

@[simp] theorem State.advanceI_mem (s : State) (q : Bool) (x : RegIx) : (s.advanceI q x).mem = s.mem := by
  cases q <;> rfl

@[simp] theorem loadRegsWith_mem (q : Bool) (x : RegIx) (s : State) : (loadRegsWith q x s).mem = s.mem := by
  simp [loadRegsWith]

@[simp] theorem storeRegsWith_mem (q : Bool) (x : RegIx) (s : State) :
    (storeRegsWith q x s).mem = Memory.storeList s.mem s.dataAddr (s.regsUpTo x) := by
  simp [storeRegsWith]

/-- `FX33` stores its three digits, `FX55` its x+1 registers, and the others nothing (R57). -/
theorem exec_mem {i : Instr} {s t : State} (h : exec i s = .next t) :
    ∃ bs, bs.length ≤ i.storeWidth ∧ t.mem = Memory.storeList s.mem s.dataAddr bs := by
  cases exec_effect h with
  | ldB => exact ⟨bcdDigits _, le_rfl, congrArg State.mem (Host.Outcome.next.inj h).symm⟩
  | storeRegs => exact ⟨s.regsUpTo _, (s.regsUpTo_length _).le, storeRegsWith_mem _ _ s⟩
  | loadRegs => exact ⟨[], Nat.zero_le _, loadRegsWith_mem _ _ s⟩
  | jump | result | resultAndFlag | index | ret | call | rnd | cls | drw | ldDtVx | ldStVx | ldVxK =>
    exact ⟨[], Nat.zero_le _, rfl⟩

@[simp] theorem keyWaitCheck_mem (s : State) : (keyWaitCheck s).mem = s.mem := by
  rcases keyWaitCheck_cases s with ⟨-, e⟩ | ⟨k, -, e⟩
  · rw [e]
  · rw [e]; rfl

/-- A step stores as its instruction does, and a key-wait check stores nothing. -/
theorem step_mem {s t : State} (h : step s = .next t) : ∃ bs, t.mem = Memory.storeList s.mem s.dataAddr bs := by
  rcases step_cases s with ⟨-, e⟩ | ⟨-, r, -, e⟩ | ⟨-, i, -, e⟩
  · cases e.symm.trans h
    exact ⟨[], keyWaitCheck_mem s.markStarted⟩
  · cases e.symm.trans h
  · obtain ⟨bs, -, hmem⟩ := exec_mem (e.symm.trans h)
    exact ⟨bs, hmem⟩

/-- Settles O15: a store to a font address is dropped (D19). -/
theorem fontBytesImmutable : Obligations.FontBytesImmutable := by
  intro s t a h hlo hhi
  obtain ⟨bs, hmem⟩ := step_mem h
  have hfont : isFontAddr (a % 4096) = true := isFontAddr_iff.2 ⟨hlo, hhi⟩
  exact (State.readByte_of_mem hmem a).trans (Memory.load_storeList_font bs s.mem s.dataAddr hfont)

/-- Settles O18: an address that the instruction does not store to lies outside the run of bytes from I upward. -/
theorem memoryUnchangedButStored : Obligations.MemoryUnchangedButStored := by
  intro i s t h a ha
  obtain ⟨bs, hlen, hmem⟩ := exec_mem h
  have hout : ∀ k, k < bs.length → (s.dataAddr + k) % 4096 ≠ a % 4096 := fun k hk he => ha ⟨k, hk.trans_le hlen, he⟩
  exact (State.readByte_of_mem hmem a).trans (Memory.load_storeList_outside bs s.mem s.dataAddr hout)

/-! ### Loading a ROM -/

/-- What a load before the first step can do (R65, R201): a ROM over 3584 bytes is an error, another is written at 0x200. -/
theorem transact_load_before_start {s : State} (rom : List Byte) (hs : s.started = false) :
    transact s (.load rom) =
      if 3584 < rom.length then (s, .error (.romTooLarge rom.length)) else (s.writeBytes 0x200 rom, .ok) := by
  rw [transact, loadRom, if_neg (by simp [hs]), maxRomBytes]

/-- A ROM of at most 3584 bytes ends at 0xFFF at the latest, so no address of it is reduced and none is a font address. -/
theorem readByte_writeBytes_rom (s : State) {rom : List Byte} (hlen : rom.length ≤ 3584) {k : Nat} (hk : k < rom.length) :
    (s.writeBytes 0x200 rom).readByte (0x200 + k) = rom[k] := by
  have hfont : isFontAddr ((0x200 + k) % 4096) = false := by
    rw [Bool.eq_false_iff, Ne, isFontAddr_iff]
    omega
  exact Memory.load_storeList_at rom s.mem 0x200 k hk (by omega) hfont

theorem readByte_writeBytes_rom_outside (s : State) {rom : List Byte} (hlen : rom.length ≤ 3584) {a : Nat}
    (ha : a % 4096 < 0x200 ∨ 0x200 + rom.length ≤ a % 4096) : (s.writeBytes 0x200 rom).readByte a = s.readByte a :=
  Memory.load_storeList_outside rom s.mem 0x200 fun k hk => by omega

/-- Settles O56: a load writes the ROM's bytes from 0x200 upward, and `writeBytes` changes nothing but memory. -/
theorem loadCopiesRom : Obligations.LoadCopiesRom := by
  intro s rom hs
  rw [transact_load_before_start rom hs]
  refine ⟨fun hlong => if_pos hlong, fun hlen => ⟨s.writeBytes 0x200 rom, if_neg (Nat.not_lt.2 hlen), ?_, ?_, rfl⟩⟩
  · exact fun _ hk => readByte_writeBytes_rom s hlen hk
  · exact fun _ ha => readByte_writeBytes_rom_outside s hlen ha

end Sys2Proof.Machine
end

section
/-! PROOF. The statements of the encoding family. A word is its fields put together again (R71), so `decode_fits` says
once what the decoder can do: it answers the instruction that encodes to the word, or the word is illegal. -/

namespace Sys2Proof

open Certificates

/-! ### A word is its fields -/

theorem wordNNN_fields {w : Word} {m : BitVec 4} (h : majorOf w = m) : wordNNN m (fieldNNN w) = w := by
  subst h
  have := w.isLt
  exact BitVec.eq_of_toNat_eq (by rw [wordNNN_toNat, majorOf_toNat, fieldNNN_toNat]; omega)

theorem wordXNN_fields {w : Word} {m : BitVec 4} {nn : Byte} (h : majorOf w = m) (hnn : fieldNN w = nn) :
    wordXNN m (fieldX w) nn = w := by
  subst h hnn
  have := w.isLt
  exact BitVec.eq_of_toNat_eq (by rw [wordXNN_toNat, majorOf_toNat, fieldX_val, fieldNN_toNat]; omega)

theorem wordXYN_fields {w : Word} {m n : BitVec 4} (h : majorOf w = m) (hn : fieldN w = n) :
    wordXYN m (fieldX w) (fieldY w) n = w := by
  subst h hn
  have := w.isLt
  exact BitVec.eq_of_toNat_eq (by rw [wordXYN_toNat, majorOf_toNat, fieldX_val, fieldY_val, fieldN_toNat]; omega)

/-! ### Decoding an encoded instruction -/

/-- Settles O1: the fields of the encoder's word are the operands it was built from, and the major opcode, with the
function where the major has several instructions (R74 to R77), leads the decoder back to the instruction. -/
theorem decodeOfEncode : Obligations.DecodeOfEncode := by
  intro i
  cases i with
  | cls | ret => rfl
  | jp | call | ldI | jpV0 | seImm | sneImm | ldImm | addImm | rnd | drw => simp [encode, decode]
  | seReg | sneReg => simp [encode, decode, decodeSkipReg]
  | ldReg | orReg | andReg | xorReg | addReg | subReg | shrReg | subnReg | shlReg =>
    simp [encode, decode, decodeMajor8]
  | skp | sknp => simp [encode, decode, decodeMajorE]
  | ldVxDt | ldVxK | ldDtVx | ldStVx | addI | ldF | ldB | storeRegs | loadRegs => simp [encode, decode, decodeMajorF]

/-- Settles O5: each word is by evaluation the encoder's. -/
theorem wordsDecodeAsWrittenOut : Obligations.WordsDecodeAsWrittenOut :=
  ⟨decodeOfEncode .cls, decodeOfEncode (.call 0x304), decodeOfEncode (.ldImm 10 0x12), decodeOfEncode (.seReg 1 2),
    decodeOfEncode (.subReg 1 2), decodeOfEncode (.drw 0 1 5), decodeOfEncode (.storeRegs 3)⟩

/-! ### What the decoder can do -/

/-- What an answer of the decoder says of the word. -/
def AnswerFits (w : Word) : Except Reject Instr → Prop
  | .ok i => encode i = w
  | .error _ => legalWord w = false

/-- An illegal word fails one of the five checks (R78). -/
theorem legalWord_eq_false_iff {w : Word} : legalWord w = false ↔ WellFormed.major0Ok w = false ∨
    WellFormed.skipRegOk w = false ∨ WellFormed.aluOk w = false ∨ WellFormed.keyOk w = false ∨
      WellFormed.miscOk w = false := by
  simp only [legalWord, Bool.and_eq_false_iff, or_assoc]

/-- A low nibble selects one of the nine operations of major 0x8 (R75), or is one of the seven that R78 lists. -/
theorem aluNibble_cases : ∀ n : BitVec 4, n ∈ [0x0#4, 0x1#4, 0x2#4, 0x3#4, 0x4#4, 0x5#4, 0x6#4, 0x7#4, 0xE#4] ∨
    [0x8, 0x9, 0xA, 0xB, 0xC, 0xD, 0xF].contains n.toNat = true := by decide

theorem decodeMajor0_fits {w : Word} (h : majorOf w = 0x0) : AnswerFits w (decodeMajor0 w) := by
  unfold decodeMajor0
  split_ifs with hcls hret
  · exact hcls.symm
  · exact hret.symm
  · have hfail : WellFormed.major0Ok w = false := by
      simp only [BitVec.toNat_eq] at hcls hret
      simpa [WellFormed.major0Ok, nibbleAt_major, h] using ⟨hcls, hret⟩
    exact legalWord_eq_false_iff.2 (.inl hfail)

theorem decodeSkipReg_fits {w : Word} {m : BitVec 4} {i : Instr} (h : majorOf w = m) (hm : m = 0x5 ∨ m = 0x9)
    (hi : encode i = wordXYN m (fieldX w) (fieldY w) 0x0) : AnswerFits w (decodeSkipReg i w) := by
  unfold decodeSkipReg
  split_ifs with hn
  · exact hi.trans (wordXYN_fields h hn)
  · have hfail : WellFormed.skipRegOk w = false := by
      rcases hm with rfl | rfl <;>
        simpa [WellFormed.skipRegOk, nibbleAt_major, nibbleAt_low, h, BitVec.toNat_eq] using hn
    exact legalWord_eq_false_iff.2 (.inr (.inl hfail))

theorem decodeMajor8_fits {w : Word} (h : majorOf w = 0x8) : AnswerFits w (decodeMajor8 w) := by
  unfold decodeMajor8
  split
  case h_10 =>
    have hfail : WellFormed.aluOk w = false := by
      rcases aluNibble_cases (fieldN w) with hop | hbad
      · simp_all
      · rw [WellFormed.aluOk, nibbleAt_major, nibbleAt_low, h, hbad]
        rfl
    exact legalWord_eq_false_iff.2 (.inr (.inr (.inl hfail)))
  all_goals exact wordXYN_fields h ‹_›

theorem decodeMajorE_fits {w : Word} (h : majorOf w = 0xE) : AnswerFits w (decodeMajorE w) := by
  unfold decodeMajorE
  split
  case h_3 hskp hsknp =>
    have hfail : WellFormed.keyOk w = false := by
      simpa [WellFormed.keyOk, nibbleAt_major, lowByte_eq, h, BitVec.toNat_eq] using And.intro hskp hsknp
    exact legalWord_eq_false_iff.2 (.inr (.inr (.inr (.inl hfail))))
  all_goals exact wordXNN_fields h ‹_›

theorem decodeMajorF_fits {w : Word} (h : majorOf w = 0xF) : AnswerFits w (decodeMajorF w) := by
  unfold decodeMajorF
  split
  case h_10 =>
    have hfail : WellFormed.miscOk w = false := by
      simp_all [WellFormed.miscOk, nibbleAt_major, lowByte_eq, BitVec.toNat_eq]
    exact legalWord_eq_false_iff.2 (.inr (.inr (.inr (.inr hfail))))
  all_goals exact wordXNN_fields h ‹_›

/-- The decoder answers the instruction that encodes to the word, or the word is illegal: major by major (R74). -/
theorem decode_fits (w : Word) : AnswerFits w (decode w) := by
  unfold decode
  split
  case h_1 h => exact decodeMajor0_fits h
  case h_2 h | h_3 h | h_11 h | h_12 h => exact wordNNN_fields h
  case h_4 h | h_5 h | h_7 h | h_8 h | h_13 h => exact wordXNN_fields h rfl
  case h_6 h => exact decodeSkipReg_fits h (.inl rfl) rfl
  case h_9 h => exact decodeMajor8_fits h
  case h_10 h => exact decodeSkipReg_fits h (.inr rfl) rfl
  case h_14 h => exact wordXYN_fields h rfl
  case h_15 h => exact decodeMajorE_fits h
  case h_16 =>
    refine decodeMajorF_fits ?_
    generalize majorOf w = m at *
    revert m
    decide

/-- Settles O2: the first case of `decode_fits`. -/
theorem encodeOfDecode : Obligations.EncodeOfDecode := by
  intro w i h
  exact (congrArg (AnswerFits w) h).mp (decode_fits w)

open Laws.WordLegal in
/-- No instruction encodes to an illegal word. -/
theorem legalWord_encode : ∀ i : Instr, legalWord (encode i) = true
  | .cls => cls | .ret => ret | .jp a => jp a | .call a => call a | .seImm x b => seImm x b | .sneImm x b => sneImm x b
  | .seReg x y => seReg x y | .ldImm x b => ldImm x b | .addImm x b => addImm x b | .ldReg x y => ldReg x y
  | .orReg x y => orReg x y | .andReg x y => andReg x y | .xorReg x y => xorReg x y | .addReg x y => addReg x y
  | .subReg x y => subReg x y | .shrReg x y => shrReg x y | .subnReg x y => subnReg x y | .shlReg x y => shlReg x y
  | .sneReg x y => sneReg x y | .ldI a => ldI a | .jpV0 a => jpV0 a | .rnd x b => rnd x b | .drw x y n => drw x y n
  | .skp x => skp x | .sknp x => sknp x | .ldVxDt x => ldVxDt x | .ldVxK x => ldVxK x | .ldDtVx x => ldDtVx x
  | .ldStVx x => ldStVx x | .addI x => addI x | .ldF x => ldF x | .ldB x => ldB x | .storeRegs x => storeRegs x
  | .loadRegs x => loadRegs x

/-- Settles O3: a word that decodes is its instruction's, and so is legal. -/
theorem illegalWordsRejected : Obligations.IllegalWordsRejected := by
  intro w
  have hfits := decode_fits w
  cases hd : decode w with
  | ok i =>
    have hlegal : legalWord w = true := encodeOfDecode w i hd ▸ legalWord_encode i
    simp [hlegal]
  | error r =>
    have hillegal : legalWord w = false := (congrArg (AnswerFits w) hd).mp hfits
    simp [hillegal]

/-! ### The opcode map -/

theorem and_majorMask (w : Word) : w &&& 0xF000 = wordNNN (majorOf w) 0 := by
  have hmask : (0xF000 : Word) = BitVec.allOnes 4 ++ 0#12 := rfl
  conv_lhs => rw [← wordNNN_fields (w := w) rfl]
  rw [hmask, wordNNN, BitVec.and_append, BitVec.and_allOnes, BitVec.and_zero]
  rfl

theorem and_nibbleMask (w : Word) : w &&& 0xF00F = wordXYN (majorOf w) 0 0 (fieldN w) := by
  have hmask : (0xF00F : Word) = BitVec.allOnes 4 ++ 0#4 ++ 0#4 ++ BitVec.allOnes 4 := rfl
  conv_lhs => rw [← wordXYN_fields (w := w) rfl rfl]
  rw [hmask, wordXYN, BitVec.and_append, BitVec.and_append, BitVec.and_append, BitVec.and_allOnes, BitVec.and_allOnes,
    BitVec.and_zero, BitVec.and_zero]
  rfl

theorem and_byteMask (w : Word) : w &&& 0xF0FF = wordXNN (majorOf w) 0 (fieldNN w) := by
  have hmask : (0xF0FF : Word) = BitVec.allOnes 4 ++ 0#4 ++ BitVec.allOnes 8 := rfl
  conv_lhs => rw [← wordXNN_fields (w := w) rfl rfl]
  rw [hmask, wordXNN, BitVec.and_append, BitVec.and_append, BitVec.and_allOnes, BitVec.and_allOnes, BitVec.and_zero]
  rfl

/-- A word that matches the row is the word of the row's instruction. -/
def RowFits (row : MapRow) : Prop := ∀ w : Word, w &&& row.mask = row.pattern → encode (row.instr w) = w

theorem rowFits_word (i : Instr) : RowFits ⟨encode i, 0xFFFF, fun _ => i⟩ := by
  intro w h
  exact h.symm.trans (BitVec.and_allOnes (x := w))

theorem rowFits_major (m : BitVec 4) {f : Word → Instr} (hf : ∀ w, majorOf w = m → encode (f w) = w) :
    RowFits ⟨wordNNN m 0, 0xF000, f⟩ := by
  intro w h
  have hfields : wordNNN (majorOf w) 0 = wordNNN m 0 := (and_majorMask w).symm.trans h
  exact hf w (by simpa using congrArg majorOf hfields)

theorem rowFits_nibble (m n : BitVec 4) {f : Word → Instr}
    (hf : ∀ w, majorOf w = m → fieldN w = n → encode (f w) = w) : RowFits ⟨wordXYN m 0 0 n, 0xF00F, f⟩ := by
  intro w h
  have hfields : wordXYN (majorOf w) 0 0 (fieldN w) = wordXYN m 0 0 n := (and_nibbleMask w).symm.trans h
  exact hf w (by simpa using congrArg majorOf hfields) (by simpa using congrArg fieldN hfields)

theorem rowFits_byte (m : BitVec 4) (nn : Byte) {f : Word → Instr}
    (hf : ∀ w, majorOf w = m → fieldNN w = nn → encode (f w) = w) : RowFits ⟨wordXNN m 0 nn, 0xF0FF, f⟩ := by
  intro w h
  have hfields : wordXNN (majorOf w) 0 (fieldNN w) = wordXNN m 0 nn := (and_byteMask w).symm.trans h
  exact hf w (by simpa using congrArg majorOf hfields) (by simpa using congrArg fieldNN hfields)

/-- Every row of the map fits: its mask keeps the major opcode, and the function where the major has several
instructions. -/
theorem opcodeMap_fits : ∀ row ∈ opcodeMapLow ++ opcodeMapHigh, RowFits row := by
  simp only [opcodeMapLow, opcodeMapHigh, List.forall_mem_append, List.forall_mem_cons]
  exact ⟨⟨rowFits_word .cls, rowFits_word .ret,
      rowFits_major 0x1 fun _ => wordNNN_fields, rowFits_major 0x2 fun _ => wordNNN_fields,
      rowFits_major 0x3 fun _ h => wordXNN_fields h rfl, rowFits_major 0x4 fun _ h => wordXNN_fields h rfl,
      rowFits_nibble 0x5 0x0 fun _ => wordXYN_fields, rowFits_major 0x6 fun _ h => wordXNN_fields h rfl,
      rowFits_major 0x7 fun _ h => wordXNN_fields h rfl, rowFits_nibble 0x8 0x0 fun _ => wordXYN_fields,
      rowFits_nibble 0x8 0x1 fun _ => wordXYN_fields, rowFits_nibble 0x8 0x2 fun _ => wordXYN_fields,
      rowFits_nibble 0x8 0x3 fun _ => wordXYN_fields, rowFits_nibble 0x8 0x4 fun _ => wordXYN_fields,
      rowFits_nibble 0x8 0x5 fun _ => wordXYN_fields, rowFits_nibble 0x8 0x6 fun _ => wordXYN_fields,
      rowFits_nibble 0x8 0x7 fun _ => wordXYN_fields, List.forall_mem_nil _⟩,
    rowFits_nibble 0x8 0xE fun _ => wordXYN_fields, rowFits_nibble 0x9 0x0 fun _ => wordXYN_fields,
    rowFits_major 0xA fun _ => wordNNN_fields, rowFits_major 0xB fun _ => wordNNN_fields,
    rowFits_major 0xC fun _ h => wordXNN_fields h rfl, rowFits_major 0xD fun _ h => wordXYN_fields h rfl,
    rowFits_byte 0xE 0x9E fun _ => wordXNN_fields, rowFits_byte 0xE 0xA1 fun _ => wordXNN_fields,
    rowFits_byte 0xF 0x07 fun _ => wordXNN_fields, rowFits_byte 0xF 0x0A fun _ => wordXNN_fields,
    rowFits_byte 0xF 0x15 fun _ => wordXNN_fields, rowFits_byte 0xF 0x18 fun _ => wordXNN_fields,
    rowFits_byte 0xF 0x1E fun _ => wordXNN_fields, rowFits_byte 0xF 0x29 fun _ => wordXNN_fields,
    rowFits_byte 0xF 0x33 fun _ => wordXNN_fields, rowFits_byte 0xF 0x55 fun _ => wordXNN_fields,
    rowFits_byte 0xF 0x65 fun _ => wordXNN_fields, List.forall_mem_nil _⟩

/-- The constructors of `Instr` stand in the order of the map (R79): an instruction's word matches the row of its own
number. -/
theorem encode_matches_row (i : Instr) : ∃ row, (opcodeMapLow ++ opcodeMapHigh)[i.ctorIdx]? = some row ∧
    encode i &&& row.mask = row.pattern := by
  cases i with
  | cls | ret => exact ⟨_, rfl, rfl⟩
  | jp | call | ldI | jpV0 => exact ⟨_, rfl, by rw [encode, and_majorMask, majorOf_wordNNN]; rfl⟩
  | seImm | sneImm | ldImm | addImm | rnd => exact ⟨_, rfl, by rw [encode, and_majorMask, majorOf_wordXNN]; rfl⟩
  | drw => exact ⟨_, rfl, by rw [encode, and_majorMask, majorOf_wordXYN]; rfl⟩
  | seReg | ldReg | orReg | andReg | xorReg | addReg | subReg | shrReg | subnReg | shlReg | sneReg =>
    exact ⟨_, rfl, by rw [encode, and_nibbleMask, majorOf_wordXYN, fieldN_wordXYN]; rfl⟩
  | skp | sknp | ldVxDt | ldVxK | ldDtVx | ldStVx | addI | ldF | ldB | storeRegs | loadRegs =>
    exact ⟨_, rfl, by rw [encode, and_byteMask, majorOf_wordXNN, fieldNN_wordXNN]; rfl⟩

/-- Settles O4: a word that matches a row is the word of the row's instruction (`opcodeMap_fits`), so it decodes to it;
and a word that decodes is its instruction's, which matches a row (`encode_matches_row`). -/
theorem opcodeMapRows : Obligations.OpcodeMapRows := by
  refine ⟨fun row hrow w hw => ?_, fun w i hd => ?_⟩
  · have hfits : encode (row.instr w) = w := opcodeMap_fits row hrow w hw
    exact (congrArg decode hfits).symm.trans (decodeOfEncode _)
  · obtain ⟨row, hrow, hmatch⟩ := encode_matches_row i
    rw [encodeOfDecode w i hd] at hmatch
    exact ⟨row, List.mem_of_getElem? hrow, hmatch⟩

end Sys2Proof
end

section
/-! PROOF. The statements of the cycle family. `exec_cases` says once whether an instruction completes and with which
error it stops (O8, O9), and the laws of `advance` and `skipIf` say where PC goes (O20). -/

namespace Sys2Proof.Machine

/-! ### When an instruction stops -/

/-- What an execution can do (R96): complete, or stop in one of the two ways of `Instr.fails`. Only CALL and RET have a
case that stops. -/
theorem exec_cases (i : Instr) (s : State) :
    (¬ i.fails s ∧ ∃ t, exec i s = .next t) ∨
      (i.isCall = true ∧ s.sp = 16 ∧ exec i s = .fault (.stackOverflow s.pc (encode i))) ∨
      (i = .ret ∧ s.sp = 0 ∧ exec i s = .fault (.stackUnderflow s.pc (encode i))) := by
  cases i with
  | call nnn =>
    rcases exec_call_cases nnn s with ⟨hlt, e⟩ | ⟨hsp, e⟩
    · have hsp : s.sp ≠ 16 := Fin.ne_of_lt hlt
      exact .inl ⟨by simp [Instr.fails, hsp], _, e⟩
    · exact .inr (.inl ⟨rfl, hsp, e⟩)
  | ret =>
    rcases exec_ret_cases s with ⟨hlt, e⟩ | ⟨hsp, e⟩
    · have hsp : s.sp ≠ 0 := Fin.ne_of_gt hlt
      exact .inl ⟨by simp [Instr.fails, Instr.isCall, hsp], _, e⟩
    · exact .inr (.inr ⟨rfl, hsp, e⟩)
  | _ => exact .inl ⟨by simp [Instr.fails, Instr.isCall], _, rfl⟩

/-- Settles O9: the two ways to stop are those of `Instr.fails`. -/
theorem decodedInstructionsComplete : Obligations.DecodedInstructionsComplete := by
  intro i s hi
  rcases exec_cases i s with ⟨-, hnext⟩ | ⟨hcall, hsp, -⟩ | ⟨hret, hsp, -⟩
  · exact hnext
  · exact absurd (.inl ⟨hcall, hsp⟩) hi
  · exact absurd (.inr ⟨hret, hsp⟩) hi

theorem exec_ne_refused (i : Instr) (s : State) (r : Refusal) : exec i s ≠ .refused r := by
  rcases exec_cases i s with ⟨-, t, e⟩ | ⟨-, -, e⟩ | ⟨-, -, e⟩ <;> simp [e]

theorem exec_fault_iff {i : Instr} {s : State} {e : Fault} :
    exec i s = .fault e ↔ (i.isCall = true ∧ s.sp = 16 ∧ e = .stackOverflow s.pc (encode i)) ∨
      (i = .ret ∧ s.sp = 0 ∧ e = .stackUnderflow s.pc (encode i)) := by
  rcases exec_cases i s with ⟨hok, t, h⟩ | ⟨hcall, hsp, h⟩ | ⟨rfl, hsp, h⟩
  · simp only [Instr.fails, not_or] at hok
    simp only [h, reduceCtorEq, false_iff]
    tauto
  · simp [h, hcall, hsp, eq_comm]
  · simp [h, hsp, eq_comm, Instr.isCall]

/-! ### When a step stops -/

/-- A word that decodes is legal, since it is its instruction's word. -/
theorem legalWord_of_decode {w : Word} {i : Instr} (h : decode w = .ok i) : legalWord w = true :=
  encodeOfDecode w i h ▸ legalWord_encode i

/-- Settles O8: a step is the key-wait check, which completes, the error of an illegal word, or the decoded instruction,
whose encoding is the word fetched. -/
theorem onlyCallRetAndIllegalWordsFail : Obligations.OnlyCallRetAndIllegalWordsFail := by
  intro s
  rcases step_cases s with ⟨hw, e⟩ | ⟨hw, r, hd, e⟩ | ⟨hw, i, hd, e⟩
  · simp [e, hw]
  · have hillegal : legalWord s.fetchWord = false := (illegalWordsRejected _).1 ⟨r, hd⟩
    simp [e, hw, hd, hillegal, eq_comm (a := Fault.unknownOpcode _ _)]
  · have hlegal : legalWord s.fetchWord = true := legalWord_of_decode hd
    have henc : encode i = s.fetchWord := encodeOfDecode _ i hd
    refine ⟨fun r => e ▸ exec_ne_refused i _ r, fun f => ?_⟩
    simp [e, exec_fault_iff, hw, hd, hlegal, henc]

/-- Settles O6: the third case of `step_cases`. -/
theorem stepRunsDecodedInstruction : Obligations.StepRunsDecodedInstruction := by
  intro s i hw hd
  rcases step_cases s with ⟨hw', -⟩ | ⟨-, r, hd', -⟩ | ⟨-, j, hd', e⟩
  · cases hw.symm.trans hw'
  · cases hd.symm.trans hd'
  · cases hd.symm.trans hd'
    exact e

/-! ### After an error -/

/-- A step sets the bookkeeping bit first, so it does the same wherever the bit stands. -/
theorem step_markStarted (s : State) : step s.markStarted = step s := rfl

theorem transact_step_of_fault {s : State} {e : Fault} (h : step s = .fault e) :
    transact s .step = (s.markStarted, .error e) := by
  simp only [transact, stepNow, h, State.afterError]

theorem Response.fault?_eq_none {resp : Response} (h : ∀ e, resp ≠ .error e) : resp.fault? = none := by
  cases resp with
  | error e => exact absurd rfl (h e)
  | ok | refused | bit | pixels | registers => rfl

/-- The record of a run's faults only grows. -/
theorem Run.transactAll_faults (ts : List Transaction) : ∀ r : Run,
    ∃ later, (r.transactAll ts).faults = r.faults ++ later := by
  induction ts with
  | nil => exact fun _ => ⟨[], (List.append_nil _).symm⟩
  | cons t ts ih =>
    intro r
    obtain ⟨later, h⟩ := ih (r.transact t)
    exact ⟨_, h.trans (by rw [Run.transact_faults, List.append_assoc])⟩

theorem Run.faulted_iff (r : Run) : r.faulted = true ↔ r.faults ≠ [] := by
  simp [Run.faulted]

/-- Settles O10: the state after an error differs in `started` alone, which a step does not read, and a run's record is
appended to. -/
theorem errorLeavesStateAndRepeats : Obligations.ErrorLeavesStateAndRepeats := by
  refine ⟨fun s e h => ?_, fun r tr => ⟨fun e h => ?_, fun h => ?_⟩, fun r trs => ?_⟩
  · rw [transact_step_of_fault h]
    exact ⟨rfl, (step_markStarted s).trans h⟩
  · rw [Run.transact_faults, h]
    rfl
  · rw [Run.transact_faults, Response.fault?_eq_none h]
    exact List.append_nil _
  · obtain ⟨later, h⟩ := Run.transactAll_faults trs r
    refine ⟨⟨later, h⟩, fun hr => ?_⟩
    rw [Run.faulted_iff, h]
    exact List.append_ne_nil_of_left_ne_nil ((Run.faulted_iff r).1 hr) later

/-! ### Where PC goes -/

/-- The sum of PC's 16 bits may overflow, which the reduction modulo 4096 does not see (D3). -/
theorem wrapAddr_add_toNat (w k : Word) : (wrapAddr (w + k)).toNat = (w.toNat + k.toNat) % 4096 := by
  rw [wrapAddr_toNat, BitVec.toNat_add]
  omega

theorem State.advance_pc_toNat (s : State) : s.advance.pc.toNat = (s.pc.toNat + 2) % 4096 :=
  wrapAddr_add_toNat s.pc 2

theorem State.skipIf_pc_toNat (s : State) (c : Bool) :
    (s.skipIf c).pc.toNat = if c then (s.pc.toNat + 4) % 4096 else (s.pc.toNat + 2) % 4096 := by
  cases c
  · exact wrapAddr_add_toNat s.pc 2
  · exact wrapAddr_add_toNat s.pc 4

theorem State.setPc_immAddr_pc_toNat (s : State) (nnn : Addr) : (s.setPc (immAddr nnn)).pc.toNat = nnn.toNat := by
  have := nnn.isLt
  rw [State.setPc_pc, wrapAddr_immAddr, immAddr, BitVec.toNat_setWidth]
  omega

theorem State.setPc_offsetTarget_pc_toNat (s : State) (nnn : Addr) :
    (s.setPc (s.offsetTarget nnn)).pc.toNat = (nnn.toNat + (s.reg 0).toNat) % 4096 := by
  have := nnn.isLt
  have := (s.reg 0).isLt
  rw [State.setPc_pc, State.offsetTarget, plusByte, wrapAddr_add_toNat, immAddr, BitVec.toNat_setWidth,
    BitVec.toNat_setWidth]
  omega

@[simp] theorem State.advanceI_pc (s : State) (q : Bool) (x : RegIx) : (s.advanceI q x).pc = s.pc := by
  cases q <;> rfl

theorem storeRegsWith_pc_toNat (q : Bool) (x : RegIx) (s : State) :
    (storeRegsWith q x s).pc.toNat = (s.pc.toNat + 2) % 4096 := by
  rw [storeRegsWith, State.advance_pc_toNat, State.advanceI_pc, State.writeBytes_pc]

theorem loadRegsWith_pc_toNat (q : Bool) (x : RegIx) (s : State) :
    (loadRegsWith q x s).pc.toNat = (s.pc.toNat + 2) % 4096 := by
  rw [loadRegsWith, State.advance_pc_toNat, State.advanceI_pc, State.setRegs_pc]

open Certificates in
/-- Settles O20, row by row of the successor table (R92): a return and a call that complete have SP in range, the others
complete by definition, and only the jumps, the skips and `FX0A` do not end in `advance`. -/
theorem successorPc : Obligations.SuccessorPc := by
  intro i s t h
  cases i with
  | ret =>
    rcases exec_ret_cases s with ⟨hsp, e⟩ | ⟨-, e⟩
    · cases e.symm.trans h
      rw [State.setPc_pc, wrapAddr_toNat, successor, dif_pos hsp]
    · cases e.symm.trans h
  | call nnn =>
    rcases exec_call_cases nnn s with ⟨hsp, e⟩ | ⟨-, e⟩
    · cases e.symm.trans h
      exact State.setPc_immAddr_pc_toNat _ nnn
    · cases e.symm.trans h
  | jp nnn => cases h; exact s.setPc_immAddr_pc_toNat nnn
  | jpV0 nnn => cases h; exact s.setPc_offsetTarget_pc_toNat nnn
  | seImm | sneImm | seReg | sneReg | skp | sknp => cases h; exact s.skipIf_pc_toNat _
  | ldVxK => cases h; rfl
  | storeRegs x => cases h; exact storeRegsWith_pc_toNat _ x s
  | loadRegs x => cases h; exact loadRegsWith_pc_toNat _ x s
  | cls | ldImm | addImm | ldReg | orReg | andReg | xorReg | addReg | subReg | shrReg | subnReg | shlReg | ldI | rnd
  | drw | ldVxDt | ldDtVx | ldStVx | addI | ldF | ldB => cases h; exact State.advance_pc_toNat _

end Sys2Proof.Machine
end

section
/-! PROOF. The statements of the control flow family. An encoding written as an OR of its fields is the encoder's word,
so `decodeOfEncode` decodes it; a skip is one lemma for all four instructions; CALL and RET are the two cases of
`exec_call_cases` and `exec_ret_cases`. -/

namespace Sys2Proof

open Certificates

/-! ### Decoding the words as the rules write them -/

theorem decode_opNNN {m : BitVec 4} {nnn : Addr} {i : Instr} (h : encode i = wordNNN m nnn) :
    decode (opNNN (m.setWidth 16 <<< 12) nnn) = .ok i := by
  rw [opNNN, orForm_nnn, ← h, decodeOfEncode]

theorem decode_opXNN {m : BitVec 4} {x : RegIx} {nn : Byte} {i : Instr} (h : encode i = wordXNN m x nn) :
    decode (opXNN (m.setWidth 16 <<< 12) x nn) = .ok i := by
  rw [opXNN, opX, orForm_xnn, ← h, decodeOfEncode]

theorem opXY_or (m : BitVec 4) (x y : RegIx) (n : BitVec 4) :
    opXY (m.setWidth 16 <<< 12) x y ||| n.setWidth 16 = wordXYN m x y n := orForm_xyn m x y n

theorem decode_opXY {m : BitVec 4} {x y : RegIx} {i : Instr} (h : encode i = wordXYN m x y 0) :
    decode (opXY (m.setWidth 16 <<< 12) x y) = .ok i := by
  have hw : opXY (m.setWidth 16 <<< 12) x y = wordXYN m x y 0 := BitVec.or_zero.symm.trans (opXY_or m x y 0)
  rw [hw, ← h, decodeOfEncode]

/-- Majors 0x5 and 0x9 refuse a low nibble other than 0 (R77, D6). -/
theorem decode_opXY_or_error (m : BitVec 4) (x y : RegIx) {n : BitVec 4} (hm : m = 0x5 ∨ m = 0x9) (hn : n ≠ 0) :
    decode (opXY (m.setWidth 16 <<< 12) x y ||| n.setWidth 16) = .error .skipLowNibble := by
  rw [opXY_or]
  rcases hm with rfl | rfl <;> simpa [decode, decodeSkipReg] using hn

end Sys2Proof

namespace Sys2Proof.Machine

open Certificates

/-! ### Jumps -/

theorem State.setPc_immAddr (s : State) (nnn : Addr) : s.setPc (immAddr nnn) = { s with pc := immAddr nnn } := by
  rw [State.setPc, wrapAddr_immAddr]

/-- Settles O22: an address of 12 bits is below 4096, so PC takes it whole. -/
theorem jpJumps : Obligations.JpJumps := fun nnn =>
  ⟨decode_opNNN (m := 0x1) rfl, fun s => congrArg Host.Outcome.next (s.setPc_immAddr nnn)⟩

/-- Settles O27: PC takes the sum reduced, and the frame is by definition. -/
theorem jpV0Jumps : Obligations.JpV0Jumps := fun nnn =>
  ⟨decode_opNNN (m := 0xB) rfl, fun s => ⟨_, rfl, s.setPc_offsetTarget_pc_toNat nnn, rfl⟩⟩

/-! ### Skips -/

/-- An instruction that skips on a condition completes, goes on by four or by two and changes PC alone (R92, D3). -/
theorem exec_skip {i : Instr} {s : State} {p : Prop} [Decidable p] (h : exec i s = .next (s.skipIf (decide p))) :
    ∃ t, exec i s = .next t ∧ t.pc.toNat = (if p then (s.pc.toNat + 4) % 4096 else (s.pc.toNat + 2) % 4096) ∧
      t = { s with pc := t.pc } :=
  ⟨_, h, by simp only [State.skipIf_pc_toNat, decide_eq_true_eq], rfl⟩

/-- Settles O24: a skip on equality with the immediate byte. -/
theorem seImmSkips : Obligations.SeImmSkips := fun _ _ => ⟨decode_opXNN (m := 0x3) rfl, fun _ => exec_skip rfl⟩

/-- Settles O25: a skip on the opposite condition. -/
theorem sneImmSkips : Obligations.SneImmSkips := fun _ _ => ⟨decode_opXNN (m := 0x4) rfl, fun _ => exec_skip rfl⟩

/-- Settles O26: two skips on registers, whose words the decoder accepts with low nibble 0 alone. -/
theorem skipOnRegisters : Obligations.SkipOnRegisters := fun x y =>
  ⟨decode_opXY (m := 0x5) rfl, decode_opXY (m := 0x9) rfl,
    fun _ hn => ⟨⟨_, decode_opXY_or_error 0x5 x y (.inl rfl) hn⟩, ⟨_, decode_opXY_or_error 0x9 x y (.inr rfl) hn⟩⟩,
    fun _ => ⟨exec_skip rfl, exec_skip rfl⟩⟩

/-! ### Calls and returns -/

/-- A return with SP above 0 (R100). -/
theorem exec_ret_of_pos {s : State} (h : 0 < s.sp.val) :
    exec .ret s = .next ((s.setStack s.stack ⟨s.sp.val - 1, by omega⟩).setPc (s.stack[s.sp.val - 1]'(by omega))) := by
  rcases exec_ret_cases s with ⟨_, e⟩ | ⟨hsp, -⟩
  · exact e
  · simp [hsp] at h

/-- A call with SP below 16 (R102). -/
theorem exec_call_of_lt (nnn : Addr) {s : State} (h : s.sp.val < 16) :
    exec (.call nnn) s = .next ((s.setStack (s.stack.set s.sp.val s.returnAddr h) ⟨s.sp.val + 1, by omega⟩).setPc
      (immAddr nnn)) := by
  rcases exec_call_cases nnn s with ⟨_, e⟩ | ⟨hsp, -⟩
  · exact e
  · simp [hsp] at h

theorem State.returnAddr_lt (s : State) : s.returnAddr.toNat < 4096 := wrapAddr_lt _

theorem State.returnAddr_toNat (s : State) : s.returnAddr.toNat = (s.pc.toNat + 2) % 4096 :=
  wrapAddr_add_toNat s.pc 2

theorem State.returnAddr_eq_ofNat (s : State) : s.returnAddr = BitVec.ofNat 16 ((s.pc.toNat + 2) % 4096) := by
  rw [← State.returnAddr_toNat, BitVec.ofNat_toNat, BitVec.setWidth_eq]

/-- Settles O21: PC takes the popped entry reduced, which is the entry when it is below 4096. -/
theorem retPopsReturnAddress : Obligations.RetPopsReturnAddress :=
  ⟨decodeOfEncode .ret, fun _ h => ⟨_, exec_ret_of_pos h, rfl, wrapAddr_of_lt, rfl⟩,
    fun _ hsp => exec_fault_iff.2 (.inr ⟨rfl, hsp, rfl⟩)⟩

/-- Settles O23: the entry pushed is the reduced return address, and the error's op is the word written as an OR. -/
theorem callPushesAndJumps : Obligations.CallPushesAndJumps := by
  intro nnn
  refine ⟨decode_opNNN (m := 0x2) rfl, fun s h => ⟨_, exec_call_of_lt nnn h, rfl, ?_, wrapAddr_immAddr nnn, rfl⟩,
    fun s hsp => exec_fault_iff.2 (.inl ⟨rfl, hsp, ?_⟩)⟩
  · rw [← s.returnAddr_eq_ofNat]
    rfl
  · exact congrArg _ (orForm_nnn 0x2 nnn)

/-- Settles O28: the entry that the return pops is the one that the call stored at the SP it had, and it is reduced
already. -/
theorem callThenRetComesBack : Obligations.CallThenRetComesBack := by
  intro s t nnn h
  rcases exec_call_cases nnn s with ⟨hsp, e⟩ | ⟨-, e⟩
  · cases e.symm.trans h
    refine ⟨_, exec_ret_of_pos (Nat.succ_pos s.sp.val), ?_, rfl, rfl⟩
    have hpop : (s.stack.set s.sp.val s.returnAddr hsp)[s.sp.val] = s.returnAddr := Vector.getElem_set_self hsp
    calc (wrapAddr (s.stack.set s.sp.val s.returnAddr hsp)[s.sp.val]).toNat
        = s.returnAddr.toNat := by rw [hpop, wrapAddr_of_lt s.returnAddr_lt]
      _ = (s.pc.toNat + 2) % 4096 := s.returnAddr_toNat
  · cases e.symm.trans h

end Sys2Proof.Machine
end

section
/-! PROOF. The statements of the register family. A result is one of two updates of the state, a register alone or a
register and then VF, so what each leaves unchanged is said once; an instruction's own part is the arithmetic of its
result and flag bytes. -/

namespace Sys2Proof

open Certificates

/-- A word of format `XYF` as the rules write it: the function stands in the base, before x and y. -/
theorem decode_opXY_function {m n : BitVec 4} {x y : RegIx} {i : Instr} (h : encode i = wordXYN m x y n) :
    decode (opXY (m.setWidth 16 <<< 12 ||| n.setWidth 16) x y) = .ok i := by
  have hw : opXY (m.setWidth 16 <<< 12 ||| n.setWidth 16) x y = wordXYN m x y n := by
    rw [← opXY_or]
    simp only [opXY, opX]
    ac_rfl
  rw [hw, ← h, decodeOfEncode]

end Sys2Proof

namespace Sys2Proof.Machine

open Certificates

/-! ### What a result leaves unchanged -/

/-- Where PC stays below 4096 the reduction of D3 does nothing. -/
theorem State.advance_advancesByTwo (s : State) : advancesByTwo s s.advance := fun h =>
  wrapAddr_of_lt (by rw [BitVec.toNat_add]; exact (Nat.mod_le _ _).trans_lt h)

theorem State.setV_advance_frame (s : State) (x : RegIx) (b : Byte) :
    otherRegs s (s.setV x b).advance x ∧ advancesByTwo s (s.setV x b).advance ∧
      onlyRegsAndPc s (s.setV x b).advance :=
  ⟨fun _ hr => s.reg_setV_ne b hr, s.advance_advancesByTwo, rfl⟩

theorem State.setResultAndFlag_advance_frame (s : State) (x : RegIx) (b : Byte) (f : Bool) :
    otherRegsAndFlag s (s.setResultAndFlag x b f).advance x ∧ advancesByTwo s (s.setResultAndFlag x b f).advance ∧
      onlyRegsAndPc s (s.setResultAndFlag x b f).advance :=
  ⟨fun _ hr h15 => s.reg_setResultAndFlag_other b f hr h15, s.advance_advancesByTwo, rfl⟩

/-- With x = 15 the flag is what VF holds (D10); any other x holds the result. -/
theorem State.setResultAndFlag_advance_reg_toNat (s : State) {x : RegIx} {b : Byte} (f : Bool) {n : Nat}
    (hb : b.toNat = n) (hx : x ≠ 15) : ((s.setResultAndFlag x b f).advance.reg x).toNat = n := by
  rw [State.advance_reg, State.reg_setResultAndFlag_result _ _ _ hx, hb]

/-! ### The flag bytes -/

theorem flagByte_decide (p : Prop) [Decidable p] : flagByte (decide p) = if p then 1 else 0 := by
  simp only [flagByte, decide_eq_true_eq]

theorem flagByte_toNat (f : Bool) : (flagByte f).toNat = f.toNat := by cases f <;> rfl

theorem lowBitOf_toNat (a : Byte) : (lowBitOf a).toNat = a.toNat % 2 := by
  rw [lowBitOf, BitVec.getLsbD, Nat.toNat_testBit, pow_zero, Nat.div_one]

theorem highBitOf_toNat (a : Byte) : (highBitOf a).toNat = a.toNat / 128 := by
  have := a.isLt
  rw [highBitOf, BitVec.getLsbD, Nat.toNat_testBit]
  omega

/-! ### Loads, the immediate add and logic -/

/-- Settles O29: the result is the immediate byte. -/
theorem ldImmLoads : Obligations.LdImmLoads := fun x nn =>
  ⟨decode_opXNN (m := 0x6) rfl, fun s => ⟨_, rfl, s.reg_setV_same x nn, s.setV_advance_frame x nn⟩⟩

/-- Settles O30: an addition of bytes is modulo 256, and VF is one of the other registers (D12). -/
theorem addImmAdds : Obligations.AddImmAdds := fun x nn =>
  ⟨decode_opXNN (m := 0x7) rfl, fun s => ⟨_, rfl,
    by rw [State.advance_reg, State.reg_setV_same, BitVec.toNat_add], s.setV_advance_frame x _⟩⟩

/-- Settles O31: the result is the byte of the y register. -/
theorem ldRegAssigns : Obligations.LdRegAssigns := fun x _ =>
  ⟨decode_opXY (m := 0x8) rfl, fun s => ⟨_, rfl, s.reg_setV_same x _, s.setV_advance_frame x _⟩⟩

/-- An instruction whose result is given bit by bit and which writes no flag. -/
theorem exec_bits {i : Instr} {s : State} {x : RegIx} {b : Byte} {bit : Nat → Bool}
    (h : exec i s = .next (s.setV x b).advance) (hb : ∀ k, b.getLsbD k = bit k) :
    ∃ t, exec i s = .next t ∧ (∀ k, (t.reg x).getLsbD k = bit k) ∧ otherRegs s t x ∧ advancesByTwo s t ∧
      onlyRegsAndPc s t :=
  ⟨_, h, fun k => by rw [State.advance_reg, State.reg_setV_same, hb], s.setV_advance_frame x b⟩

/-- Settles O32: a bit of the result is the operation on the operands' bits, and VF is one of the other registers
(D11). -/
theorem bitwiseOperations : Obligations.BitwiseOperations := fun _ _ =>
  ⟨decode_opXY_function (m := 0x8) (n := 0x1) rfl, decode_opXY_function (m := 0x8) (n := 0x2) rfl,
    decode_opXY_function (m := 0x8) (n := 0x3) rfl, fun _ =>
    ⟨exec_bits rfl fun _ => BitVec.getLsbD_or, exec_bits rfl fun _ => BitVec.getLsbD_and,
      exec_bits rfl fun _ => BitVec.getLsbD_xor⟩⟩

/-- Settles O36: the byte drawn is that of the count before the draw, and masking clears the bits outside nn. -/
theorem rndMasksOneDraw : Obligations.RndMasksOneDraw := by
  intro x nn
  refine ⟨decode_opXNN (m := 0xC) rfl, fun s => ?_⟩
  obtain ⟨hregs, hpc, -⟩ := s.countDraw.setV_advance_frame x (s.drawnByte &&& nn)
  have hv : (s.countDraw.setV x (s.drawnByte &&& nn)).advance.reg x = s.drawnByte &&& nn :=
    s.countDraw.reg_setV_same x _
  refine ⟨_, rfl, hv, fun k hk => ?_, rfl, hregs, hpc, rfl⟩
  rw [hv, BitVec.getLsbD_and, hk, Bool.and_false]

/-! ### Arithmetic with a flag -/

/-- Settles O33: the flag is written last (D10), so VF is the carry for every x. -/
theorem addRegAddsWithCarry : Obligations.AddRegAddsWithCarry := fun x _ =>
  ⟨decode_opXY_function (m := 0x8) (n := 0x4) rfl, fun s => ⟨_, rfl,
    s.setResultAndFlag_advance_reg_toNat _ (BitVec.toNat_add _ _),
    (s.reg_setResultAndFlag_flag x _ _).trans (flagByte_decide _), s.setResultAndFlag_advance_frame x _ _⟩⟩

theorem byte_sub_toNat (a b : Byte) : (a - b).toNat = (a.toNat + 256 - b.toNat) % 256 := by
  have := b.isLt
  rw [BitVec.toNat_sub]
  omega

/-- An instruction that subtracts b from a, whichever registers hold them (R129, R131, D8). -/
theorem exec_subtraction {i : Instr} {s : State} {x : RegIx} {a b : Byte}
    (h : exec i s = .next (s.setResultAndFlag x (a - b) (noBorrowOf a b)).advance) :
    ∃ t, exec i s = .next t ∧ (x ≠ 15 → (t.reg x).toNat = (a.toNat + 256 - b.toNat) % 256) ∧
      t.reg 15 = (if b.toNat ≤ a.toNat then 1 else 0) ∧ otherRegsAndFlag s t x ∧ advancesByTwo s t ∧
      onlyRegsAndPc s t :=
  ⟨_, h, s.setResultAndFlag_advance_reg_toNat _ (byte_sub_toNat a b),
    (s.reg_setResultAndFlag_flag x _ _).trans (flagByte_decide _), s.setResultAndFlag_advance_frame x _ _⟩

/-- Settles O34: the two instructions are one subtraction with the operands exchanged (D8). -/
theorem subtractionsWithNoBorrow : Obligations.SubtractionsWithNoBorrow := fun _ _ =>
  ⟨decode_opXY_function (m := 0x8) (n := 0x5) rfl, decode_opXY_function (m := 0x8) (n := 0x7) rfl,
    fun _ => ⟨exec_subtraction rfl, exec_subtraction rfl⟩⟩

/-- An instruction that shifts, its result and the bit shifted out given as numbers (R130, R132). -/
theorem exec_shift {i : Instr} {s : State} {x : RegIx} {b : Byte} {f : Bool} {n k : Nat}
    (h : exec i s = .next (s.setResultAndFlag x b f).advance) (hb : b.toNat = n) (hf : f.toNat = k) :
    ∃ t, exec i s = .next t ∧ (x ≠ 15 → (t.reg x).toNat = n) ∧ (t.reg 15).toNat = k ∧
      otherRegsAndFlag s t x ∧ advancesByTwo s t ∧ onlyRegsAndPc s t :=
  ⟨_, h, s.setResultAndFlag_advance_reg_toNat f hb,
    by rw [State.advance_reg, State.reg_setResultAndFlag_flag, flagByte_toNat, hf],
    s.setResultAndFlag_advance_frame x b f⟩

theorem byte_shiftRight_one_toNat (a : Byte) : (a >>> 1).toNat = a.toNat / 2 := by
  rw [BitVec.toNat_ushiftRight, Nat.shiftRight_eq_div_pow, pow_one]

theorem byte_shiftLeft_one_toNat (a : Byte) : (a <<< 1).toNat = a.toNat * 2 % 256 := by
  rw [BitVec.toNat_shiftLeft, Nat.shiftLeft_eq, pow_one]

/-- Settles O35: a shift halves or doubles the byte of x, with y not read (D9), and the bit shifted out is the remainder
or the overflow. -/
theorem shiftsByOne : Obligations.ShiftsByOne := fun _ _ =>
  ⟨decode_opXY_function (m := 0x8) (n := 0x6) rfl, decode_opXY_function (m := 0x8) (n := 0xE) rfl, fun _ =>
    ⟨exec_shift rfl (byte_shiftRight_one_toNat _) (lowBitOf_toNat _),
      exec_shift rfl (byte_shiftLeft_one_toNat _) (highBitOf_toNat _)⟩⟩

end Sys2Proof.Machine
end

section
/-! PROOF. The statements of the index and memory family. Where bytes are stored and what stays is said over any
execution by `exec_mem`; the open increment of I is said once for both of its values and both instructions. -/

namespace Sys2Proof

open Certificates

/-- A word of format `XFF` as the rules write it: the function stands in the base, before x. -/
theorem decode_opX_function {m : BitVec 4} {nn : Byte} {x : RegIx} {i : Instr} (h : encode i = wordXNN m x nn) :
    decode (opX (m.setWidth 16 <<< 12 ||| nn.setWidth 16) x) = .ok i := by
  rw [opX, or_function_last, orForm_xnn, ← h, decodeOfEncode]

theorem bcdDigits_getElem_toNat (b : Byte) {k : Nat} (hk : k < (Machine.bcdDigits b).length) :
    (Machine.bcdDigits b)[k].toNat =
      if k = 0 then b.toNat / 100 else if k = 1 then b.toNat / 10 % 10 else b.toNat % 10 := by
  have := b.isLt
  match k, hk with
  | 0, _ | 1, _ | 2, _ => simp [Machine.bcdDigits]; omega

end Sys2Proof

namespace Sys2Proof.Machine

open Certificates

/-! ### The index register -/

theorem wrapAddr_plusByte_toNat (w : Word) (b : Byte) :
    (wrapAddr (plusByte w b)).toNat = (w.toNat + b.toNat) % 4096 := by
  rw [plusByte, wrapAddr_add_toNat, BitVec.toNat_setWidth_of_le (by decide)]

theorem State.setI_glyphAddr_toNat (s : State) (d : Byte) : (s.setI (glyphAddr d)).i.toNat = 0x050 + 5 * d.toNat := by
  rw [State.setI_i, wrapAddr_glyphAddr, glyphAddr_toNat]

/-- Settles O37: an address of 12 bits is below 4096, so I takes it whole. -/
theorem ldISetsIndex : Obligations.LdISetsIndex := fun nnn =>
  ⟨decode_opNNN (m := 0xA) rfl, fun s =>
    ⟨_, rfl, wrapAddr_immAddr nnn, (s.setI _).advance_advancesByTwo, rfl⟩⟩

/-- Settles O38: I takes the sum reduced, and the frame leaves VF as it was (D12). -/
theorem addIAddsModulo4096 : Obligations.AddIAddsModulo4096 := fun _ =>
  ⟨decode_opX_function (m := 0xF) (nn := 0x1E) rfl, fun s =>
    ⟨_, rfl, wrapAddr_plusByte_toNat s.i _, (s.setI _).advance_advancesByTwo, rfl⟩⟩

/-- Settles O39: the glyph address of any byte is below 4096, so I takes it whole (D17). -/
theorem ldFPointsAtGlyph : Obligations.LdFPointsAtGlyph := fun _ =>
  ⟨decode_opX_function (m := 0xF) (nn := 0x29) rfl, fun s =>
    ⟨_, rfl, s.setI_glyphAddr_toNat _, (s.setI _).advance_advancesByTwo, rfl⟩⟩

/-! ### What a store reads back as -/

/-- Bytes written from I upward are each at their address, outside the font (D19). -/
theorem readByte_writeBytes_dataAddr (s : State) {bs : List Byte} (hlen : bs.length ≤ 16) {k : Nat}
    (hk : k < bs.length) (hf : isFontAddr ((s.i.toNat + k) % 4096) = false) :
    (s.writeBytes s.dataAddr bs).readByte (s.i.toNat + k) = bs[k] :=
  Memory.load_storeList_at bs s.mem s.dataAddr k hk (by omega) hf

theorem exec_readByte_font {i : Instr} {s t : State} (h : exec i s = .next t) {a : Nat}
    (hf : isFontAddr (a % 4096) = true) : t.readByte a = s.readByte a := by
  obtain ⟨bs, -, hmem⟩ := exec_mem h
  exact (State.readByte_of_mem hmem a).trans (Memory.load_storeList_font bs s.mem s.dataAddr hf)

/-- The memory frame (O18) with the stored addresses written out. -/
theorem exec_readByte_outside {i : Instr} {s t : State} (h : exec i s = .next t) {a : Nat}
    (ha : ∀ k, k < i.storeWidth → (s.i.toNat + k) % 4096 ≠ a % 4096) : t.readByte a = s.readByte a :=
  memoryUnchangedButStored i s t h a fun ⟨k, hk, he⟩ => ha k hk he

/-- Settles O40: the three bytes stored are the digits of V[x]. -/
theorem ldBStoresDigits : Obligations.LdBStoresDigits := by
  intro x
  refine ⟨decode_opX_function (m := 0xF) (nn := 0x33) rfl, fun s => ?_⟩
  have hexec : exec (.ldB x) s = .next (s.writeBytes s.dataAddr (bcdDigits (s.reg x))).advance := rfl
  refine ⟨_, hexec, fun k hk hf => ?_, fun a ha => exec_readByte_outside hexec ha,
    fun a hf => exec_readByte_font hexec hf, (s.writeBytes _ _).advance_advancesByTwo, rfl⟩
  have hread := readByte_writeBytes_dataAddr s (bs := bcdDigits (s.reg x)) (by simp [bcdDigits_length]) hk hf
  exact (congrArg BitVec.toNat hread).trans (bcdDigits_getElem_toNat _ hk)

/-! ### `FX55` and `FX65` -/

/-- The increment is X+1, modulo 4096, when the open parameter asks for it (R146, D5, D18). -/
theorem State.advanceI_i_toNat (s : State) (q : Bool) (x : RegIx) :
    (s.advanceI q x).i.toNat = if q then (s.i.toNat + x.val + 1) % 4096 else s.i.toNat := by
  cases q with
  | false => rfl
  | true =>
    have hx : (BitVec.ofNat 16 (x.val + 1)).toNat = x.val + 1 := Nat.mod_eq_of_lt (by omega)
    rw [State.advanceI_true, State.setI_i, wrapAddr_add_toNat, hx, if_pos rfl, Nat.add_assoc]

theorem storeRegsWith_i_toNat (q : Bool) (x : RegIx) (s : State) :
    (storeRegsWith q x s).i.toNat = if q then (s.i.toNat + x.val + 1) % 4096 else s.i.toNat := by
  rw [storeRegsWith, State.advance_i, State.advanceI_i_toNat, State.writeBytes_i]

theorem loadRegsWith_i_toNat (q : Bool) (x : RegIx) (s : State) :
    (loadRegsWith q x s).i.toNat = if q then (s.i.toNat + x.val + 1) % 4096 else s.i.toNat := by
  rw [loadRegsWith, State.advance_i, State.advanceI_i_toNat, State.setRegs_i]

theorem advancesByTwo_of_pc_toNat {s t : State} (h : t.pc.toNat = (s.pc.toNat + 2) % 4096) : advancesByTwo s t := by
  intro hlt
  have hadd : (s.pc + 2).toNat = (s.pc.toNat + 2) % 65536 := BitVec.toNat_add s.pc 2
  exact BitVec.eq_of_toNat_eq (by omega)

theorem storeRegsWith_frame (q : Bool) (x : RegIx) (s : State) :
    storeRegsWith q x s = { s with
      mem := (storeRegsWith q x s).mem, i := (storeRegsWith q x s).i, pc := (storeRegsWith q x s).pc } := by
  cases q <;> rfl

/-- Which bytes are loaded plays no part, so the loaded registers stand as one variable. -/
theorem loadRegsWith_frame (q : Bool) (x : RegIx) (s : State) :
    loadRegsWith q x s = { s with
      v := (loadRegsWith q x s).v, i := (loadRegsWith q x s).i, pc := (loadRegsWith q x s).pc } := by
  unfold loadRegsWith
  generalize s.loadedRegs s.dataAddr x = loaded
  cases q <;> rfl

theorem State.regsUpTo_getElem (s : State) {x k : RegIx} (hk : k.val < (s.regsUpTo x).length) :
    (s.regsUpTo x)[k.val] = s.reg k := by
  simp [State.regsUpTo, State.reg]

theorem loadRegsWith_reg (q : Bool) (x k : RegIx) (s : State) :
    (loadRegsWith q x s).reg k = if k ≤ x then s.readByte (s.i.toNat + k.val) else s.reg k := by
  rw [loadRegsWith, State.advance_reg, State.advanceI_reg, State.reg_setRegs_loadedRegs, State.dataAddr]

/-- Settles O41: the bytes stored are the registers up to x, whatever the increment of I is. -/
theorem storeRegsStores : Obligations.StoreRegsStores := by
  intro x
  refine ⟨decode_opX_function (m := 0xF) (nn := 0x55) rfl, fun s => ?_⟩
  have hexec : exec (.storeRegs x) s = .next (storeRegsWith Config.quirkLsIncrementI x s) := rfl
  have hlen : (s.regsUpTo x).length = x.val + 1 := s.regsUpTo_length x
  refine ⟨_, hexec, fun k hk hf => ?_, fun a ha => ?_, fun a hf => exec_readByte_font hexec hf,
    storeRegsWith_i_toNat _ x s, advancesByTwo_of_pc_toNat (storeRegsWith_pc_toNat _ x s), storeRegsWith_frame _ x s⟩
  · have hlt : k.val < (s.regsUpTo x).length := hlen ▸ Nat.lt_succ_of_le hk
    calc (storeRegsWith Config.quirkLsIncrementI x s).readByte (s.i.toNat + k.val)
        = (s.writeBytes s.dataAddr (s.regsUpTo x)).readByte (s.i.toNat + k.val) :=
          State.readByte_of_mem (storeRegsWith_mem _ x s) _
      _ = (s.regsUpTo x)[k.val] := readByte_writeBytes_dataAddr s (by omega) hlt hf
      _ = s.reg k := s.regsUpTo_getElem hlt
  · exact exec_readByte_outside hexec fun k hk => ha k (Nat.le_of_lt_succ hk)

/-- Settles O42: the registers up to x are the bytes read, the others as before, whatever the increment of I is. -/
theorem loadRegsLoads : Obligations.LoadRegsLoads := by
  intro x
  refine ⟨decode_opX_function (m := 0xF) (nn := 0x65) rfl, fun s => ?_⟩
  have hexec : exec (.loadRegs x) s = .next (loadRegsWith Config.quirkLsIncrementI x s) := rfl
  refine ⟨_, hexec, fun k hk => ?_, fun k hk => ?_, loadRegsWith_i_toNat _ x s,
    advancesByTwo_of_pc_toNat (loadRegsWith_pc_toNat _ x s), loadRegsWith_frame _ x s⟩
  · rw [loadRegsWith_reg, if_pos hk, State.readByte_mod]
  · rw [loadRegsWith_reg, if_neg (not_le_of_gt hk)]

end Sys2Proof.Machine
end

section
/-! PROOF. The statements of the display family. What `DXYN` does is said once, in the terms of the statements
(`exec_drw_effect`), so that two draws in a row are two uses of it; that nothing but a display instruction sets drawFlag
is one lemma per transaction, and then an induction over the sequence. -/

namespace Sys2Proof.Machine

open Certificates

/-! ### The pixels a sprite covers -/

theorem rowsHit_spriteRows_iff (s : State) (x y : RegIx) (n : BitVec 4) (X : Fin 64) (Y : Fin 32) :
    rowsHit (s.reg x).toNat (s.reg y).toNat 0 (s.spriteRows n.toNat) X Y ↔ spriteCovers s x y n X Y := by
  constructor
  · rintro ⟨row, hrow, col, hcol, rfl, rfl, hbit⟩
    rw [State.spriteRows_getElem] at hbit
    exact ⟨row, col, s.spriteRows_length n.toNat ▸ hrow, hcol, rfl, by rw [Nat.zero_add]; rfl, hbit⟩
  · rintro ⟨row, col, hrow, hcol, hX, hY, hbit⟩
    have hlen : row < (s.spriteRows n.toNat).length := (s.spriteRows_length n.toNat).symm ▸ hrow
    refine ⟨row, hlen, col, hcol, Fin.ext hX.symm, Fin.ext ?_, ?_⟩
    · rw [Nat.zero_add]
      exact hY.symm
    · rw [State.spriteRows_getElem]
      exact hbit

/-- The pixels covered depend on the sprite's bytes and on its origin modulo the screen (R161). -/
theorem spriteCovers_congr {s t : State} {x y x' y' : RegIx} (hmem : t.mem = s.mem) (hi : t.i = s.i)
    (hx : (t.reg x').toNat % 64 = (s.reg x).toNat % 64) (hy : (t.reg y').toNat % 32 = (s.reg y).toNat % 32)
    (n : BitVec 4) (X : Fin 64) (Y : Fin 32) : spriteCovers t x' y' n X Y ↔ spriteCovers s x y n X Y := by
  refine exists_congr fun row => exists_congr fun col => ?_
  have hcol : ((t.reg x').toNat + col) % 64 = ((s.reg x).toNat + col) % 64 := Nat.ModEq.add_right col hx
  have hrow : ((t.reg y').toNat + row) % 32 = ((s.reg y).toNat + row) % 32 := Nat.ModEq.add_right row hy
  have hbyte : t.readByte (t.i.toNat + row) = s.readByte (s.i.toNat + row) := hi ▸ State.readByte_of_mem hmem _
  rw [hcol, hrow, hbyte]

/-- A sprite has at most 15 rows, so no pixel is covered twice. -/
theorem State.drawn_spec (s : State) (x y : RegIx) (n : BitVec 4) :
    (∀ X Y, Frame.pixel (s.drawn x y n.toNat).1 X Y = true ↔
        ¬(Frame.pixel s.fb X Y = true ↔ spriteCovers s x y n X Y)) ∧
      ((s.drawn x y n.toNat).2 = true ↔ ∃ X Y, spriteCovers s x y n X Y ∧ Frame.pixel s.fb X Y = true) := by
  have hn : 0 + (s.spriteRows n.toNat).length ≤ 32 := by
    rw [State.spriteRows_length]
    omega
  simpa [State.drawn, rowsHit_spriteRows_iff] using drawRows_spec (s.reg x).toNat (s.reg y).toNat _ 0 hn (s.fb, false)

/-! ### `00E0` and `DXYN` -/

/-- Settles O43: whatever was displayed, the display is now the blank one, and VF is among what `advance` keeps. -/
theorem clsClearsDisplay : Obligations.ClsClearsDisplay :=
  ⟨decodeOfEncode .cls, fun s =>
    ⟨_, rfl, Frame.pixel_blank, rfl, (s.setDisplay Frame.blank).advance_advancesByTwo, rfl⟩⟩

theorem flagByte_eq_one_iff {b : Bool} : flagByte b = 1 ↔ b = true := by cases b <;> decide

/-- What a draw does to the pixels and to VF (R161 to R163), and that it leaves the sprite where it is. -/
theorem exec_drw_effect {x y : RegIx} {n : BitVec 4} {s t : State} (h : exec (.drw x y n) s = .next t) :
    (∀ X Y, Frame.pixel t.fb X Y = true ↔ ¬(Frame.pixel s.fb X Y = true ↔ spriteCovers s x y n X Y)) ∧
      (t.reg 15 = 1 ↔ ∃ X Y, spriteCovers s x y n X Y ∧ Frame.pixel s.fb X Y = true) ∧
      t.mem = s.mem ∧ t.i = s.i := by
  obtain ⟨hpixel, hcollision⟩ := s.drawn_spec x y n
  cases h
  refine ⟨hpixel, ?_, rfl, rfl⟩
  rw [State.advance_reg, State.reg_setFlag, flagByte_eq_one_iff, hcollision]

/-- Settles O44: VF is written last (D10), as 1 or 0, so what is not a collision leaves 0. -/
theorem drwXorsSprite : Obligations.DrwXorsSprite := by
  intro x y n
  refine ⟨(congrArg decode (opXY_or 0xD x y n)).trans (decodeOfEncode (.drw x y n)), fun s => ?_⟩
  obtain ⟨hpixel, hflag, -, -⟩ := exec_drw_effect (x := x) (y := y) (n := n) (s := s) rfl
  obtain ⟨hbit, -⟩ := flagWrittenOnlyByFlagWriters (.drw x y n) s _ rfl
  exact ⟨_, rfl, hpixel, hflag.2, fun hnone => (hbit rfl).resolve_right (mt hflag.1 hnone),
    fun _ hr => (s.setDisplay _).reg_setV_ne _ hr, rfl, State.advance_advancesByTwo _, rfl⟩

/-- Settles O45: the second draw covers the same pixels, and a pixel inverted twice is as it was; a covered pixel that
was clear is set in between, which is what the second draw collides with. -/
theorem drawingTwiceRestoresFrame : Obligations.DrawingTwiceRestoresFrame := by
  intro x y x' y' n s t h hx hy
  obtain ⟨hfirst, -, hmem, hi⟩ := exec_drw_effect h
  obtain ⟨u, hu⟩ : ∃ u, exec (.drw x' y' n) t = .next u := ⟨_, rfl⟩
  obtain ⟨hsecond, hflag, -, -⟩ := exec_drw_effect hu
  have hcovers := spriteCovers_congr hmem hi hx hy n
  refine ⟨u, hu, Frame.ext_pixel fun X Y => Bool.eq_iff_iff.2 ?_, hflag.trans ?_⟩
  · rw [hsecond, hfirst, hcovers]
    tauto
  · refine exists_congr fun X => exists_congr fun Y => ?_
    rw [hcovers, hfirst, ← Bool.not_eq_true]
    tauto

/-- Refutes O46: a sprite of one set pixel is drawn twice where that pixel was set before. The first draw clears it and
the second sets it, from 0 to 1, which R163 calls no collision (log entry 5). -/
theorem not_secondDrawAlwaysCollides : ¬ Obligations.SecondDrawAlwaysCollides := by
  intro h
  let s : State := { State.reset with i := 0x300, mem := [(0x300, 0x80)], fb := Frame.flip Frame.blank 0 0 }
  have hcovers : ∃ X Y, spriteCovers s 0 1 1 X Y := ⟨0, 0, 0, 0, by decide⟩
  have hflag := h 0 1 1 s _ _ (by decide) (by decide) hcovers rfl rfl
  exact absurd hflag (by decide)

/-! ### drawFlag -/

/-- The word at PC is neither `00E0` nor `DXYN`. -/
def State.fetchesNoDisplay (s : State) : Prop :=
  decode s.fetchWord ≠ .ok .cls ∧ ∀ x y n, decode s.fetchWord ≠ .ok (.drw x y n)

@[simp] theorem keyWaitCheck_drawFlag (s : State) : (keyWaitCheck s).drawFlag = s.drawFlag := by
  rcases keyWaitCheck_cases s with ⟨-, e⟩ | ⟨k, -, e⟩
  · rw [e]
  · rw [e]; rfl

theorem step_drawFlag {s t : State} (h : step s = .next t) (hs : s.fetchesNoDisplay) : t.drawFlag = s.drawFlag := by
  obtain ⟨hcls, hdrw⟩ := hs
  rcases step_cases s with ⟨-, e⟩ | ⟨-, r, -, e⟩ | ⟨-, i, hd, e⟩
  · cases e.symm.trans h
    exact keyWaitCheck_drawFlag s.markStarted
  · cases e.symm.trans h
  · obtain ⟨-, -, -, -, -, hdisplay, -⟩ := otherStateUnchangedButWritten i _ t (e.symm.trans h)
    exact (hdisplay (fun hi => hcls (hi ▸ hd)) fun x y n hi => hdrw x y n (hi ▸ hd)).2

theorem stepNow_drawFlag {s : State} (hs : s.fetchesNoDisplay) : (stepNow s).1.drawFlag = s.drawFlag := by
  unfold stepNow
  cases h : step s with
  | next t => exact step_drawFlag h hs
  | fault | refused => rfl

theorem loadRom_drawFlag (rom : List Byte) (s : State) : (loadRom rom s).1.drawFlag = s.drawFlag := by
  unfold loadRom
  split_ifs <;> rfl

/-- No transaction but a step on a display instruction sets drawFlag. -/
theorem transact_drawFlag_eq_false {s : State} {tr : Transaction} (hs : s.drawFlag = false)
    (hstep : tr = .step → s.fetchesNoDisplay) : (transact s tr).1.drawFlag = false := by
  cases tr with
  | reset | consumeDrawFlag => rfl
  | load rom => exact (loadRom_drawFlag rom s).trans hs
  | step => exact (stepNow_drawFlag (hstep rfl)).trans hs
  | tick | setKey | readFramebuffer | readSoundActive | readRegisters => exact hs

theorem transactAll_drawFlag_eq_false (trs : List Transaction) : ∀ s : State, s.drawFlag = false →
    (∀ before after, trs = before ++ .step :: after → (transactAll s before).fetchesNoDisplay) →
    (transactAll s trs).drawFlag = false := by
  induction trs with
  | nil => exact fun _ hs _ => hs
  | cons tr trs ih =>
    intro s hs hsteps
    refine ih _ (transact_drawFlag_eq_false hs fun htr => ?_) fun before after htrs => ?_
    · exact hsteps [] trs (congrArg (· :: trs) htr)
    · exact hsteps (tr :: before) after (congrArg (tr :: ·) htrs)

/-- Settles O55: the flag is clear after the first call, and the transactions before the second leave it clear. -/
theorem consumeDrawFlagReturnsAndClears : Obligations.ConsumeDrawFlagReturnsAndClears :=
  ⟨fun _ => rfl, fun trs s hsteps =>
    congrArg Response.bit (transactAll_drawFlag_eq_false trs s.clearDrawFlag rfl hsteps)⟩

end Sys2Proof.Machine
end

section
/-! PROOF. The statements of the timers and input family. What the key-wait check does is said once, by the bits of the
fresh keys (`keyWaitCheck_of_no_fresh`, `keyWaitCheck_of_least`), and both statements on the wait use it; what setKey
writes is said once per bit (`setBit_getLsbD`). -/

namespace Sys2Proof.Machine

open Certificates

/-! ### Timers -/

/-- Settles O47: the result is the delay timer. -/
theorem ldVxDtReadsDelayTimer : Obligations.LdVxDtReadsDelayTimer := fun x =>
  ⟨decode_opX_function (m := 0xF) (nn := 0x07) rfl, fun s =>
    ⟨_, rfl, s.reg_setV_same x _, s.setV_advance_frame x _⟩⟩

/-- Settles O48: the timer takes the byte of the register. -/
theorem ldDtVxSetsDelayTimer : Obligations.LdDtVxSetsDelayTimer := fun _ =>
  ⟨decode_opX_function (m := 0xF) (nn := 0x15) rfl, fun s =>
    ⟨_, rfl, rfl, (s.setDt _).advance_advancesByTwo, rfl⟩⟩

theorem State.soundActive_eq (s : State) : s.soundActive = decide (s.st ≠ 0) := by
  rw [State.soundActive, bne, beq_eq_decide, decide_not]

theorem transact_readSoundActive (s : State) : transact s .readSoundActive = (s, .bit (decide (s.st ≠ 0))) :=
  congrArg (fun b => (s, Response.bit b)) s.soundActive_eq

/-- Settles O49: the sound output is read off the timer that was set (D33). -/
theorem ldStVxSetsSoundTimer : Obligations.LdStVxSetsSoundTimer := fun _ =>
  ⟨decode_opX_function (m := 0xF) (nn := 0x18) rfl, fun s =>
    ⟨_, rfl, rfl, transact_readSoundActive _, (s.setSt _).advance_advancesByTwo, rfl⟩⟩

theorem countDown_toNat (t : Byte) : (countDown t).toNat = t.toNat - 1 := by
  unfold countDown
  split_ifs with h
  · simp [h]
  · have hpos : 1#8 ≤ t := BitVec.le_def.2 (Nat.pos_of_ne_zero fun h0 => h (BitVec.eq_of_toNat_eq h0))
    exact BitVec.toNat_sub_of_le hpos

/-- Settles O53: each timer counts down by itself. -/
theorem tickCountsDown : Obligations.TickCountsDown := fun s =>
  ⟨s.tick, rfl, countDown_toNat s.dt, countDown_toNat s.st, rfl⟩

/-! ### The keypad -/

theorem exec_skp_eq (x : RegIx) (s : State) :
    exec (.skp x) s = .next (s.skipIf (decide (s.keys.getLsbD ((s.reg x).toNat % 16) = true))) := by
  rw [Bool.decide_eq_true]
  rfl

theorem exec_sknp_eq (x : RegIx) (s : State) :
    exec (.sknp x) s = .next (s.skipIf (decide (s.keys.getLsbD ((s.reg x).toNat % 16) = false))) := by
  rw [Bool.decide_eq_false]
  rfl

/-- Settles O50: two skips, on a key that is down and on one that is up (D15). -/
theorem skipOnKey : Obligations.SkipOnKey := fun x =>
  ⟨decode_opX_function (m := 0xE) (nn := 0x9E) rfl, decode_opX_function (m := 0xE) (nn := 0xA1) rfl,
    fun s => ⟨exec_skip (exec_skp_eq x s), exec_skip (exec_sknp_eq x s)⟩⟩

/-- Only bit k is set, to `pressed`. -/
theorem setBit_getLsbD (w : BitVec 16) {k : Nat} (hk : k < 16) (pressed : Bool) (j : Nat) :
    (setBit w k pressed).getLsbD j = if j = k then pressed else w.getLsbD j := by
  have hbit : (1#16 <<< k).getLsbD j = decide (j = k) := by
    rw [← BitVec.twoPow_eq, BitVec.getLsbD_twoPow]
    simp [hk, eq_comm]
  cases pressed with
  | true =>
    rw [setBit, if_pos rfl, BitVec.getLsbD_or, hbit]
    by_cases h : j = k <;> simp [h]
  | false =>
    rw [setBit, if_neg Bool.false_ne_true, BitVec.getLsbD_and, BitVec.getLsbD_not, hbit]
    by_cases h : j = k
    · simp [h]
    · simpa [h] using BitVec.lt_of_getLsbD

theorem State.setKey_keys_getLsbD (s : State) (index : Nat) (pressed : Bool) (j : Nat) :
    (s.setKey index pressed).keys.getLsbD j = if j = index % 16 then pressed else s.keys.getLsbD j :=
  setBit_getLsbD _ (Nat.mod_lt _ (by decide)) _ _

theorem State.setKey_waitMask_press (s : State) (index : Nat) : (s.setKey index true).waitMask = s.waitMask := rfl

theorem State.setKey_waitMask_release (s : State) (index j : Nat) :
    (s.setKey index false).waitMask.getLsbD j = if j = index % 16 then false else s.waitMask.getLsbD j :=
  setBit_getLsbD s.waitMask (Nat.mod_lt index (by decide)) false j

/-- Settles O54: key and mask are each written in the one bit, and a press leaves the mask as it is (D16). -/
theorem setKeyRecordsKey : Obligations.SetKeyRecordsKey := by
  intro s index pressed
  refine ⟨s.setKey index pressed, rfl, ?_, ?_, ?_, fun k hne => ⟨?_, ?_⟩, rfl⟩
  · rw [State.setKey_keys_getLsbD, if_pos rfl]
  · rintro rfl
    exact s.setKey_waitMask_press index
  · rintro rfl
    rw [State.setKey_waitMask_release, if_pos rfl]
  · rw [State.setKey_keys_getLsbD, if_neg hne]
  · cases pressed with
    | true => rw [State.setKey_waitMask_press]
    | false => rw [State.setKey_waitMask_release, if_neg hne]

/-! ### The key wait -/

/-- Settles O51: entering the wait is the whole of the execution, so PC stays. -/
theorem ldVxKEntersKeyWait : Obligations.LdVxKEntersKeyWait := fun _ =>
  ⟨decode_opX_function (m := 0xF) (nn := 0x0A) rfl, fun _ => rfl⟩

/-- A key is fresh when it is pressed and not masked (R190). -/
theorem State.freshKeys_getLsbD (s : State) {k : Nat} (hk : k < 16) :
    s.freshKeys.getLsbD k = true ↔ s.keys.getLsbD k = true ∧ s.waitMask.getLsbD k = false := by
  simp [State.freshKeys, hk]

theorem step_of_waiting {s : State} (hw : s.waiting = true) : step s = .next (keyWaitCheck s.markStarted) := by
  rcases step_cases s with ⟨-, e⟩ | ⟨hw', -⟩ | ⟨hw', -⟩
  · exact e
  · cases hw.symm.trans hw'
  · cases hw.symm.trans hw'

theorem keyWaitCheck_of_no_fresh {s : State} (h : ∀ k : RegIx, s.freshKeys.getLsbD k.val = false) :
    keyWaitCheck s = s := by
  have hlowest := (lowestSet_none s.freshKeys).2 h
  rcases keyWaitCheck_cases s with ⟨-, e⟩ | ⟨k, hk, -⟩
  · exact e
  · cases hk.symm.trans hlowest

theorem keyWaitCheck_of_least {s : State} {k : RegIx} (hk : s.freshKeys.getLsbD k.val = true)
    (hlt : ∀ j < k, s.freshKeys.getLsbD j.val = false) :
    keyWaitCheck s = ((s.setV s.waitReg (BitVec.ofNat 8 k.val)).leaveWait).advance := by
  have hlowest := (lowestSet_some s.freshKeys k).2 ⟨hk, hlt⟩
  rcases keyWaitCheck_cases s with ⟨hnone, -⟩ | ⟨j, hj, e⟩
  · cases hnone.symm.trans hlowest
  · cases hj.symm.trans hlowest
    exact e

/-- Settles O52: the key found is below 16, so the byte written is its index. -/
theorem keyWaitStep : Obligations.KeyWaitStep := by
  intro s hw
  rw [step_of_waiting hw]
  refine ⟨fun hnone => ?_, fun k hk hkey hmask hlt => ?_⟩
  · have hfresh : ∀ j : RegIx, s.freshKeys.getLsbD j.val = false := fun j =>
      Bool.eq_false_iff.2 fun hj => hnone j.val j.isLt ((s.freshKeys_getLsbD j.isLt).1 hj)
    exact congrArg Host.Outcome.next (keyWaitCheck_of_no_fresh (s := s.markStarted) hfresh)
  · have hfresh : s.freshKeys.getLsbD k = true := (s.freshKeys_getLsbD hk).2 ⟨hkey, hmask⟩
    have hleast : ∀ j : RegIx, j < ⟨k, hk⟩ → s.freshKeys.getLsbD j.val = false := fun j hj =>
      Bool.eq_false_iff.2 fun h => hlt j.val hj ((s.freshKeys_getLsbD j.isLt).1 h)
    rw [keyWaitCheck_of_least (s := s.markStarted) (k := ⟨k, hk⟩) hfresh hleast]
    refine ⟨_, rfl, ?_, fun r hr => s.reg_setV_ne _ hr, rfl, State.advance_pc_toNat _, rfl⟩
    have hreg := congrArg BitVec.toNat (s.reg_setV_same s.waitReg (BitVec.ofNat 8 k))
    exact hreg.trans (Nat.mod_eq_of_lt (by omega))

theorem transact_step_of_next {s t : State} (h : step s = .next t) : transact s .step = (t, .ok) := by
  simp only [transact, stepNow, h]

theorem loadRom_waiting (rom : List Byte) (s : State) : (loadRom rom s).1.waiting = s.waiting := by
  unfold loadRom
  split_ifs <;> rfl

/-- A step that ends the wait finds a fresh key: with none the state is as before. -/
theorem freshKeys_ne_zero_of_step {s t : State} (hw : s.waiting = true) (h : step s = .next t)
    (ht : t.waiting = false) : s.freshKeys ≠ 0#16 := by
  intro hzero
  have hnone : ∀ k : RegIx, s.markStarted.freshKeys.getLsbD k.val = false := fun k =>
    (congrArg (BitVec.getLsbD · k.val) hzero).trans BitVec.getLsbD_zero
  rw [step_of_waiting hw, keyWaitCheck_of_no_fresh hnone] at h
  cases h
  cases hw.symm.trans ht

/-- Settles O59: no other transaction writes the wait. -/
theorem keyWaitEndsOnlyByFreshKeyOrReset : Obligations.KeyWaitEndsOnlyByFreshKeyOrReset := by
  intro s tr hw ht
  cases tr with
  | reset => exact .inl rfl
  | step =>
    have hstep := step_of_waiting hw
    rw [transact_step_of_next hstep] at ht
    exact .inr ⟨rfl, freshKeys_ne_zero_of_step hw hstep ht⟩
  | load rom => cases hw.symm.trans ((loadRom_waiting rom s).symm.trans ht)
  | tick | setKey | consumeDrawFlag | readFramebuffer | readSoundActive | readRegisters => cases hw.symm.trans ht

end Sys2Proof.Machine
end

section
/-! PROOF. The statements of the exceptions family. What the two transactions with more than one outcome can do to the
state is said once each (`loadRom_cases`, `stepNow_cases`); the invariant (O13) and the table of R215 (O60) are each
one case split over the transactions. -/

namespace Sys2Proof.Machine

/-! ### What a load and a step can do to the state -/

theorem loadRom_cases (rom : List Byte) (s : State) :
    (loadRom rom s).1 = s ∨ (loadRom rom s).1 = s.writeBytes 0x200 rom := by
  unfold loadRom
  split_ifs
  · exact .inl rfl
  · exact .inl rfl
  · exact .inr rfl

/-- A step answers a next state, or only the bookkeeping bit is set (R94). -/
theorem stepNow_cases (s : State) : step s = .next (stepNow s).1 ∨ (stepNow s).1 = s.markStarted := by
  unfold stepNow
  cases step s with
  | next t => exact .inl rfl
  | fault | refused => exact .inr rfl

/-! ### The invariant -/

theorem State.reset_inv : State.reset.Inv := by
  have hstack : ∀ k : Fin 16, State.reset.stack[k.val].toNat < 4096 := by decide
  exact ⟨⟨.nil, nofun⟩, nofun, by decide, by decide, hstack⟩

/-- Settles O13: a load writes with the machine's `write8`, a step that answers a next state is O12's, and the other
transactions but reset write none of memory, PC, I and the stack. -/
theorem transactionsKeepInvariant : Obligations.TransactionsKeepInvariant := by
  intro s tr hs
  cases tr with
  | reset => exact State.reset_inv
  | load rom =>
    show (loadRom rom s).1.Inv
    rcases loadRom_cases rom s with e | e
    · rw [e]; exact hs
    · rw [e]; exact hs.writeBytes
  | step =>
    show (stepNow s).1.Inv
    rcases stepNow_cases s with h | e
    · exact stepKeepsInvariant s _ hs h
    · rw [e]; exact hs
  | tick | setKey | consumeDrawFlag | readFramebuffer | readSoundActive | readRegisters => exact hs

/-! ### What a step keeps -/

@[simp] theorem keyWaitCheck_keys (s : State) : (keyWaitCheck s).keys = s.keys := by
  rcases keyWaitCheck_cases s with ⟨-, e⟩ | ⟨k, -, e⟩
  · rw [e]
  · rw [e]; rfl

theorem step_keys {s t : State} (h : step s = .next t) : t.keys = s.keys := by
  rcases step_cases s with ⟨-, e⟩ | ⟨-, r, -, e⟩ | ⟨-, i, -, e⟩
  · cases e.symm.trans h
    exact keyWaitCheck_keys s.markStarted
  · cases e.symm.trans h
  · obtain ⟨-, -, -, -, -, -, hkeys, -⟩ := otherStateUnchangedButWritten i _ t (e.symm.trans h)
    exact hkeys

theorem stepNow_keys (s : State) : (stepNow s).1.keys = s.keys := by
  rcases stepNow_cases s with h | e
  · exact step_keys h
  · rw [e]; rfl

/-- An instruction sets drawFlag or leaves it as it is (D14). -/
theorem Effect.drawFlag_eq_true {i : Instr} {s t : State} (he : Effect s i t) (hs : s.drawFlag = true) :
    t.drawFlag = true := by
  cases he with
  | cls | drw => rfl
  | storeRegs => rw [storeRegsWith_frame]; exact hs
  | loadRegs => rw [loadRegsWith_frame]; exact hs
  | jump | result | resultAndFlag | index | ret | call | rnd | ldDtVx | ldStVx | ldVxK | ldB => exact hs

theorem step_drawFlag_eq_true {s t : State} (h : step s = .next t) (hs : s.drawFlag = true) : t.drawFlag = true := by
  rcases step_cases s with ⟨-, e⟩ | ⟨-, r, -, e⟩ | ⟨-, i, -, e⟩
  · cases e.symm.trans h
    exact (keyWaitCheck_drawFlag s.markStarted).trans hs
  · cases e.symm.trans h
  · exact (exec_effect (e.symm.trans h)).drawFlag_eq_true hs

theorem stepNow_drawFlag_eq_true {s : State} (hs : s.drawFlag = true) : (stepNow s).1.drawFlag = true := by
  rcases stepNow_cases s with h | e
  · exact step_drawFlag_eq_true h hs
  · rw [e]; exact hs

/-! ### The table of R215 -/

theorem loadRom_eq_setMem (rom : List Byte) (s : State) : ∃ m, (loadRom rom s).1 = s.setMem m := by
  rcases loadRom_cases rom s with e | e
  · exact ⟨s.mem, e⟩
  · exact ⟨_, e⟩

theorem State.framePixels_length (s : State) : s.framePixels.length = 2048 := by
  simp [State.framePixels, List.length_flatMap]

theorem countDown_le (t : Byte) : (countDown t).toNat ≤ t.toNat := by
  rw [countDown_toNat]
  exact Nat.sub_le _ _

/-- Settles O60, row by row of the table of R215: a column that a transaction may write is one whose premise names the
transaction, and every other column is as it was. The columns are keys, waitMask, drawFlag, a drawFlag that is set, the
timers, their bound, memory and the rest. -/
theorem transactionsChangeOnlyTheirState : Obligations.TransactionsChangeOnlyTheirState := by
  refine fun s => ⟨fun tr hreset => ?_, ⟨s.framePixels, rfl, s.framePixels_length, s.framePixels_getElem?⟩,
    transact_readSoundActive s, s.registerView, rfl, rfl, rfl, rfl, rfl, rfl, rfl, rfl⟩
  cases tr with
  | reset => exact absurd rfl hreset
  | step =>
    exact ⟨(stepNow s).1, rfl, fun _ => stepNow_keys s, fun _ h => absurd rfl h, fun _ h => absurd rfl h,
      fun _ => stepNow_drawFlag_eq_true, fun _ h => absurd rfl h, fun h => absurd rfl h, fun _ h => absurd rfl h,
      fun h => absurd rfl h⟩
  | load rom =>
    obtain ⟨m, e⟩ := loadRom_eq_setMem rom s
    exact ⟨s.setMem m, e, fun _ => rfl, fun _ _ => rfl, fun _ _ => rfl, fun _ hd => hd, fun _ _ => ⟨rfl, rfl⟩,
      fun _ => ⟨le_rfl, le_rfl⟩, fun h => absurd rfl (h rom), fun _ => rfl⟩
  | tick =>
    exact ⟨s.tick, rfl, fun _ => rfl, fun _ _ => rfl, fun _ _ => rfl, fun _ hd => hd, fun h => absurd rfl h,
      fun _ => ⟨countDown_le s.dt, countDown_le s.st⟩, fun _ _ => rfl, fun _ => rfl⟩
  | setKey index pressed =>
    exact ⟨s.setKey index pressed, rfl, fun h => absurd rfl (h index pressed), fun h => absurd rfl (h index pressed),
      fun _ _ => rfl, fun _ hd => hd, fun _ _ => ⟨rfl, rfl⟩, fun _ => ⟨le_rfl, le_rfl⟩, fun _ _ => rfl, fun _ => rfl⟩
  | consumeDrawFlag =>
    exact ⟨s.clearDrawFlag, rfl, fun _ => rfl, fun _ _ => rfl, fun h => absurd rfl h, fun h => absurd rfl h,
      fun _ _ => ⟨rfl, rfl⟩, fun _ => ⟨le_rfl, le_rfl⟩, fun _ _ => rfl, fun _ => rfl⟩
  | readFramebuffer | readSoundActive | readRegisters =>
    exact ⟨s, rfl, fun _ => rfl, fun _ _ => rfl, fun _ _ => rfl, fun _ hd => hd, fun _ _ => ⟨rfl, rfl⟩,
      fun _ => ⟨le_rfl, le_rfl⟩, fun _ _ => rfl, fun _ => rfl⟩

end Sys2Proof.Machine
end

section
/-! PROOF. The statements of the reset family. Reset lists no cell, so after it a byte reads as its address reads unlisted;
and that a step sets `started` is one more field of `step_cases`. -/

namespace Sys2Proof.Machine

/-! ### What reset leaves -/

/-- The other half of `unlistedByte_font`: outside the font range reset leaves 0 (R231). -/
theorem unlistedByte_outside {a : Nat} (h : a < 0x050 ∨ 0x0A0 ≤ a) : unlistedByte a = 0 := by
  have hfont : ¬(0x050 ≤ a ∧ a < 0x0A0) := by omega
  exact dif_neg hfont

@[simp] theorem State.readByte_resetNow (s : State) (a : Nat) : s.resetNow.readByte a = unlistedByte (a % 4096) := rfl

@[simp] theorem State.reg_resetNow (s : State) (x : RegIx) : s.resetNow.reg x = 0 := Vector.getElem_replicate _

@[simp] theorem State.stack_resetNow (s : State) (k : Fin 16) : s.resetNow.stack[k.val] = 0 := Vector.getElem_replicate _

/-- Settles O58: V, the stack and the framebuffer are filled with zeros, no byte of memory is listed, and the other fields
are written out in the definition of reset. -/
theorem resetLeavesResetValues : Obligations.ResetLeavesResetValues := by
  refine fun s => ⟨s.resetNow, rfl, rfl, s.reg_resetNow, rfl, rfl, rfl, s.stack_resetNow, rfl, rfl, Frame.pixel_blank,
    rfl, rfl, rfl, rfl, rfl, rfl, fun k hk => ?_, fun a ha hout => ?_⟩
  · have hmod : (0x050 + k) % 4096 = 0x050 + k := Nat.mod_eq_of_lt (by omega)
    rw [State.readByte_resetNow, hmod, unlistedByte_font hk]
  · rw [State.readByte_resetNow, Nat.mod_eq_of_lt ha, unlistedByte_outside hout]

/-- Settles O11: the base case of O12 and O13. -/
theorem resetSatisfiesInvariant : Obligations.ResetSatisfiesInvariant := State.reset_inv

/-! ### A step has run -/

@[simp] theorem keyWaitCheck_started (s : State) : (keyWaitCheck s).started = s.started := by
  rcases keyWaitCheck_cases s with ⟨-, e⟩ | ⟨k, -, e⟩
  · rw [e]
  · rw [e]; rfl

/-- A step sets the bit before anything else, and neither the key wait nor an instruction writes it (R39, R90). -/
theorem step_started {s t : State} (h : step s = .next t) : t.started = true := by
  rcases step_cases s with ⟨-, e⟩ | ⟨-, r, -, e⟩ | ⟨-, i, -, e⟩
  · cases e.symm.trans h
    exact keyWaitCheck_started s.markStarted
  · cases e.symm.trans h
  · obtain ⟨-, -, -, -, -, -, -, -, hstarted, -⟩ := otherStateUnchangedButWritten i _ t (e.symm.trans h)
    exact hstarted

/-- An error keeps the bit (R94), so it is set whatever the outcome. -/
theorem stepNow_started (s : State) : (stepNow s).1.started = true := by
  rcases stepNow_cases s with h | e
  · exact step_started h
  · rw [e]; rfl

/-- The other half of `transact_load_before_start`: after the first step no ROM is admitted (R233, D24). -/
theorem transact_load_after_start {s : State} (rom : List Byte) (hs : s.started = true) :
    transact s (.load rom) = (s, .refused .loadAfterStart) := by
  rw [transact, loadRom, if_pos hs]

/-- Settles O57: the bit that every step sets is the one that `load` tests first (R39). -/
theorem loadRefusedAfterFirstStep : Obligations.LoadRefusedAfterFirstStep := fun s rom =>
  ⟨stepNow_started s, transact_load_after_start rom⟩

end Sys2Proof.Machine
end
